-- ==== Sys2Proof/Word.lean ====
section
/-! DEFINITION. The widths the spec fixes (00_scope.md R7): bytes, 6-bit slot values, the 24-bit packed group and 32-bit
registers. Types only; nothing here computes. -/

namespace Sys2Proof

/-- A data byte, key byte, Base64 character or output byte (R7). -/
abbrev Byte := BitVec 8

/-- A Base64 slot value (R7). -/
abbrev Sextet := BitVec 6

/-- The packed group value of three bytes (R7). -/
abbrev Group := BitVec 24

/-- A register, a command word, the decoded byte counter (R7). -/
abbrev Word := BitVec 32

end Sys2Proof
end

