-- ==== Sys2Proof/Config.lean ====
section
/-! DEFINITION. The two parameters of a unit (00_scope.md R5, R6). The spec leaves no value free, so there is no
uninterpreted constant here. -/

namespace Sys2Proof

/-- KEYMAX (R5) and OUTDEPTH (R6), fixed for a unit (10_state.md R31). State carries them as constant data, so that one
model stands for every unit (log entry 2). -/
structure Config where
  keyMax   : Nat
  outDepth : Nat
  deriving DecidableEq, Repr

/-- The values the spec uses wherever a number is needed (R5, R6). -/
def Config.standard : Config := { keyMax := 512, outDepth := 64 }

end Sys2Proof
end

