-- ==== Sys2Proof/Syntax.lean ====
section
/-! DEFINITION. The 14 commands of the BEMU (30_encoding.md R93), one constructor per row of spec/opcode_table.json, and the
three fields of format C (R90). -/

namespace Sys2Proof

/-- A command, the unit's instruction. The operand DATA is an unsigned byte used as it stands (R91). -/
inductive Instr where
  /-- `NOP` (R190) -/
  | nop
  /-- `RST` (R191) -/
  | rst
  /-- `B64E.INIT` (R121) -/
  | b64eInit
  /-- `B64E.PUT d` (R122) -/
  | b64ePut (d : Byte)
  /-- `B64E.END` (R123) -/
  | b64eEnd
  /-- `B64D.INIT` (R141) -/
  | b64dInit
  /-- `B64D.PUT c` (R142) -/
  | b64dPut (c : Byte)
  /-- `B64D.END` (R143) -/
  | b64dEnd
  /-- `KEY.CLR` (R161) -/
  | keyClr
  /-- `KEY.PUT k` (R162) -/
  | keyPut (k : Byte)
  /-- `BRD.INIT` (R173) -/
  | brdInit
  /-- `BRD.ENC m` (R174) -/
  | brdEnc (m : Byte)
  /-- `BRD.DEC c` (R175) -/
  | brdDec (c : Byte)
  /-- `BRD.OFS` (R176) -/
  | brdOfs
  deriving DecidableEq, Repr

/-- The fields of a command word in format C (R90): RSV = [31:12], OP = [11:8], DATA = [7:0]. -/
structure Fields where
  rsv  : BitVec 20
  op   : BitVec 4
  data : Byte
  deriving DecidableEq, Repr

end Sys2Proof
end

