-- ==== Sys2Proof/WellFormed.lean ====
section
/-! DEFINITION. Which command words are legal, as checks on the fields of format C (30_encoding.md R90, R95), and which
parameters a unit may have (00_scope.md R5, R6). An `Instr` carries its operand as a byte, so every `Instr` is well formed by
its type; the checks stand on the raw fields. -/

namespace Sys2Proof

/-- OP of the five commands that take DATA as an operand (R94). -/
def takesOperand (op : BitVec 4) : Bool :=
  op = 0x3#4 || op = 0x6#4 || op = 0x9#4 || op = 0xB#4 || op = 0xC#4

/-- The reserved bits [31:12] are zero (R90, R95). -/
def Fields.reservedZero (f : Fields) : Bool := f.rsv = 0

/-- OP is one of the 14 opcodes; 0xE and 0xF are reserved (R93, R95). -/
def Fields.opcodeAssigned (f : Fields) : Bool := f.op.toNat < 14

/-- DATA is zero where the opcode takes no operand (R90, R95). -/
def Fields.operandAllowed (f : Fields) : Bool := takesOperand f.op || f.data = 0

/-- A legal command word (R94). -/
def Fields.wf (f : Fields) : Bool := f.reservedZero && f.opcodeAssigned && f.operandAllowed

/-- The ranges of KEYMAX and OUTDEPTH (R5, R6). -/
abbrev Config.WellFormed (c : Config) : Prop :=
  (1 ≤ c.keyMax ∧ c.keyMax ≤ 65535) ∧ (4 ≤ c.outDepth ∧ c.outDepth ≤ 65535)

end Sys2Proof
end

