-- ==== Sys2Proof/Decode.lean ====
section
/-! DEFINITION. The decoder (30_encoding.md R94), total on every 32-bit word and rejecting by name; the encoder, written from
the opcode map (R93, R97); and the map itself as match and mask rows. -/

namespace Sys2Proof

/-- Why a word is illegal (R95). -/
inductive IllegalWord where
  /-- one of the bits [31:12] is set -/
  | reservedBits
  /-- OP = 0xE or 0xF -/
  | reservedOpcode
  /-- DATA is not zero on an opcode without operand -/
  | operandNotZero
  deriving DecidableEq, Repr

/-- What R94's `decode` answers: a command, or `illegal`. -/
inductive Decoded where
  | legal (i : Instr)
  | illegal (why : IllegalWord)
  deriving DecidableEq, Repr

/-- The fields of a word (R90). -/
def fieldsOf (v : Word) : Fields :=
  { rsv := v.extractLsb' 12 20, op := v.extractLsb' 8 4, data := v.extractLsb' 0 8 }

/-- An opcode without operand requires DATA = 0 (R94). -/
def withoutOperand (data : Byte) (i : Instr) : Decoded :=
  if data = 0 then .legal i else .illegal .operandNotZero

/-- The opcode map (R93) on an opcode and its DATA. -/
def decodeOp (op : BitVec 4) (data : Byte) : Decoded :=
  match op.toNat with
  | 0x0 => withoutOperand data .nop
  | 0x1 => withoutOperand data .rst
  | 0x2 => withoutOperand data .b64eInit
  | 0x3 => .legal (.b64ePut data)
  | 0x4 => withoutOperand data .b64eEnd
  | 0x5 => withoutOperand data .b64dInit
  | 0x6 => .legal (.b64dPut data)
  | 0x7 => withoutOperand data .b64dEnd
  | 0x8 => withoutOperand data .keyClr
  | 0x9 => .legal (.keyPut data)
  | 0xA => withoutOperand data .brdInit
  | 0xB => .legal (.brdEnc data)
  | 0xC => .legal (.brdDec data)
  | 0xD => withoutOperand data .brdOfs
  | _   => .illegal .reservedOpcode

/-- R94: reserved bits first, then the opcode, then DATA. -/
def decode (v : Word) : Decoded :=
  let f := fieldsOf v
  if f.rsv = 0 then decodeOp f.op f.data else .illegal .reservedBits

/-- OP and DATA of a command (R93), RSV zero (R90). -/
def Instr.fields : Instr → Fields
  | .nop       => { rsv := 0, op := 0x0#4, data := 0 }
  | .rst       => { rsv := 0, op := 0x1#4, data := 0 }
  | .b64eInit  => { rsv := 0, op := 0x2#4, data := 0 }
  | .b64ePut d => { rsv := 0, op := 0x3#4, data := d }
  | .b64eEnd   => { rsv := 0, op := 0x4#4, data := 0 }
  | .b64dInit  => { rsv := 0, op := 0x5#4, data := 0 }
  | .b64dPut c => { rsv := 0, op := 0x6#4, data := c }
  | .b64dEnd   => { rsv := 0, op := 0x7#4, data := 0 }
  | .keyClr    => { rsv := 0, op := 0x8#4, data := 0 }
  | .keyPut k  => { rsv := 0, op := 0x9#4, data := k }
  | .brdInit   => { rsv := 0, op := 0xA#4, data := 0 }
  | .brdEnc m  => { rsv := 0, op := 0xB#4, data := m }
  | .brdDec c  => { rsv := 0, op := 0xC#4, data := c }
  | .brdOfs    => { rsv := 0, op := 0xD#4, data := 0 }

/-- A word from its fields, RSV on top (R90). -/
def Fields.pack (f : Fields) : Word := (f.rsv ++ f.op) ++ f.data

/-- The word a command assembles to: (OP << 8) | DATA (R97). -/
def encode (i : Instr) : Word := i.fields.pack

/-- A row of the opcode map (R93): the mnemonic as text, and match and mask. -/
structure OpRow where
  name   : List Char
  word   : Word
  mask   : Word
  deriving DecidableEq, Repr

/-- A word selects a row if and only if (v & mask) = match (R93). -/
def OpRow.selects (r : OpRow) (v : Word) : Bool := v &&& r.mask = r.word

/-- The row of a command in the opcode map (R93). -/
def Instr.row : Instr → OpRow
  | .nop       => { name := ['N', 'O', 'P'], word := 0x00000000#32, mask := 0xFFFFFFFF#32 }
  | .rst       => { name := ['R', 'S', 'T'], word := 0x00000100#32, mask := 0xFFFFFFFF#32 }
  | .b64eInit  => { name := ['B', '6', '4', 'E', '.', 'I', 'N', 'I', 'T'], word := 0x00000200#32, mask := 0xFFFFFFFF#32 }
  | .b64ePut _ => { name := ['B', '6', '4', 'E', '.', 'P', 'U', 'T'], word := 0x00000300#32, mask := 0xFFFFFF00#32 }
  | .b64eEnd   => { name := ['B', '6', '4', 'E', '.', 'E', 'N', 'D'], word := 0x00000400#32, mask := 0xFFFFFFFF#32 }
  | .b64dInit  => { name := ['B', '6', '4', 'D', '.', 'I', 'N', 'I', 'T'], word := 0x00000500#32, mask := 0xFFFFFFFF#32 }
  | .b64dPut _ => { name := ['B', '6', '4', 'D', '.', 'P', 'U', 'T'], word := 0x00000600#32, mask := 0xFFFFFF00#32 }
  | .b64dEnd   => { name := ['B', '6', '4', 'D', '.', 'E', 'N', 'D'], word := 0x00000700#32, mask := 0xFFFFFFFF#32 }
  | .keyClr    => { name := ['K', 'E', 'Y', '.', 'C', 'L', 'R'], word := 0x00000800#32, mask := 0xFFFFFFFF#32 }
  | .keyPut _  => { name := ['K', 'E', 'Y', '.', 'P', 'U', 'T'], word := 0x00000900#32, mask := 0xFFFFFF00#32 }
  | .brdInit   => { name := ['B', 'R', 'D', '.', 'I', 'N', 'I', 'T'], word := 0x00000A00#32, mask := 0xFFFFFFFF#32 }
  | .brdEnc _  => { name := ['B', 'R', 'D', '.', 'E', 'N', 'C'], word := 0x00000B00#32, mask := 0xFFFFFF00#32 }
  | .brdDec _  => { name := ['B', 'R', 'D', '.', 'D', 'E', 'C'], word := 0x00000C00#32, mask := 0xFFFFFF00#32 }
  | .brdOfs    => { name := ['B', 'R', 'D', '.', 'O', 'F', 'S'], word := 0x00000D00#32, mask := 0xFFFFFFFF#32 }

/-- One command of each opcode, in the order of the opcode map (R93); operands 0. -/
def oneOfEach : List Instr :=
  [.nop, .rst, .b64eInit, .b64ePut 0, .b64eEnd, .b64dInit, .b64dPut 0, .b64dEnd, .keyClr, .keyPut 0, .brdInit, .brdEnc 0,
    .brdDec 0, .brdOfs]

/-- The opcode map (R93). -/
def opcodeMap : List OpRow := oneOfEach.map Instr.row

/-- The word whose low `nbits` bits are those of `w` and whose other bits are zero. A command is one 32-bit value and bit 0 is
its least significant bit (R90), so the table's numbering is the word's own. -/
def tableWord (nbits w : Nat) : Word := BitVec.ofNat 32 (w % 2 ^ nbits)

/-- What the decoder reads from a row's word of spec/opcode_table.json. -/
def decodeTableWord (nbits w : Nat) : Option Instr :=
  match decode (tableWord nbits w) with
  | .legal i => some i
  | .illegal _ => none

end Sys2Proof
end

