-- ==== Sys2Proof/Machine/State.lean ====
section
/-! DEFINITION. The state of the BEMU (10_state.md R20) as plain data, the host accesses still to come and the values already
returned (R41, R42, R246), the reasons a step can stop, and the state after reset (70_reset_and_hazards.md R231). -/

namespace Sys2Proof.Machine

open Sys2Proof

/-- ERRCODE (R30). The values 5 to 7 never occur, so they have no name. -/
inductive ErrCode where
  /-- 0: no fault -/
  | none
  /-- 1: ILLEGAL (R201) -/
  | illegal
  /-- 2: KEY_OVERFLOW (R202) -/
  | keyOverflow
  /-- 3: NO_KEY (R203) -/
  | noKey
  /-- 4: OUT_OVERRUN (R204) -/
  | outOverrun
  deriving DecidableEq, Repr

/-- The eight registers of the register map (R40). -/
inductive HostReg where
  | cmd
  | status
  | out
  | dcnt
  | keylen
  | kidx
  | ofs
  | cap
  deriving DecidableEq, Repr

/-- What the host and the platform can do to the unit, one transition each (R8, R230). -/
inductive HostAccess where
  /-- `HostWrite(r, v)` (R41) -/
  | write (r : Nat) (v : Word)
  /-- `HostRead(r)` (R42) -/
  | read (r : Nat)
  /-- the pseudo-access `DRAIN`: read OUT until VALID = 0 (R98); it stays first in line until that read -/
  | drain
  /-- hardware reset, between two accesses (R230) -/
  | hardwareReset
  deriving DecidableEq, Repr

/-- A value returned to the host by a read of a register (R42). -/
structure ReadBack where
  reg   : HostReg
  value : Word
  deriving DecidableEq, Repr

/-- The state: the elements of R20, the unit's parameters (R5, R6), and the host's side of the interface (R246). -/
structure State where
  /-- KEYMAX and OUTDEPTH, constant (R31; log entry 2) -/
  cfg      : Config
  /-- ENC_N: bytes of the current encoder group already received (R21) -/
  encN     : Fin 3
  /-- ENC_B0: first byte of the current group (R21) -/
  encB0    : Byte
  /-- ENC_B1: second byte of the current group (R21) -/
  encB1    : Byte
  /-- DEC_N: slots of the current decoder group already filled (R22) -/
  decN     : Fin 4
  /-- DEC_S0 (R22) -/
  decS0    : Sextet
  /-- DEC_S1 (R22) -/
  decS1    : Sextet
  /-- DEC_S2 (R22) -/
  decS2    : Sextet
  /-- DCNT: the decoded byte count modulo 2^32 (R23) -/
  dcnt     : Word
  /-- KEYMEM[0 .. KEYLEN-1]; its length is KEYLEN (R25, R26, R232; log entry 1) -/
  key      : List Byte
  /-- KIDX: the cyclic key index (R27) -/
  kidx     : Nat
  /-- OFS: the offset most recently computed, in two's complement (R28) -/
  ofs      : Byte
  /-- OUTQ: the output queue, oldest byte first (R29) -/
  outq     : List Byte
  /-- ERR (R30) -/
  err      : Bool
  /-- ERRCODE (R30) -/
  errcode  : ErrCode
  /-- the model's own: the accesses still to be performed, first one first (R246; log entry 3) -/
  pending  : List HostAccess
  /-- the model's own: the values reads have returned, oldest first (R42, R246; log entry 4) -/
  returned : List ReadBack
  deriving DecidableEq, Repr

/-- Model faults. A fault of the spec (R201 to R204) is NOT one of these: it is a next state with ERR = 1 (R205). -/
inductive Fault where
  /-- Raised by `BRD.ENC`, `BRD.DEC` and `BRD.OFS` where KIDX is not below a non-zero KEYLEN: the key entry does not exist,
  and R232 asks for a model fault and never a value. No reachable state is such (R32 (c)). Safe. -/
  | keyReadPastEnd
  deriving DecidableEq, Repr

/-- Refusals: the model gives no meaning. -/
inductive Refusal where
  /-- Raised by an arm of `exec` for a command without a meaning yet. No arm is such. Safe. -/
  | notModelled (mnemonic : String)
  /-- Raised by a host access to a register number above 7: the spec gives no transition for it, what happens is the
  platform's (R51). Safe. -/
  | noSuchRegister (r : Nat)
  deriving DecidableEq, Repr

/-- The outcome of a command, an access or a step. -/
abbrev Result := Host.Outcome State Fault Refusal

/-- The reset state of a unit with the given parameters (R231), with no access pending and none returned. -/
def State.initial (c : Config) : State :=
  { cfg := c
    encN := 0, encB0 := 0, encB1 := 0
    decN := 0, decS0 := 0, decS1 := 0, decS2 := 0, dcnt := 0
    key := [], kidx := 0, ofs := 0
    outq := [], err := false, errcode := .none
    pending := [], returned := [] }

/-- The reset state with the parameters the spec uses (R5, R6, R231). -/
def State.reset : State := State.initial Config.standard

end Sys2Proof.Machine
end

