-- ==== Sys2Proof/Machine/Operands.lean ====
section
/-! DEFINITION. How operand bytes and held values are taken apart and put together: the alphabet (20_memory.md R63 to R65), the
encoder's packing (R62) and the decoder's bit order (R66), and the key byte at KIDX (R61). -/

namespace Sys2Proof.Machine

open Sys2Proof

/-- `enc6`: the character of a 6-bit value (R63; log entry 8). -/
def enc6 (v : Sextet) : Byte :=
  let n := v.toNat
  if n < 26 then BitVec.ofNat 8 (0x41 + n)
  else if n < 52 then BitVec.ofNat 8 (0x61 + (n - 26))
  else if n < 62 then BitVec.ofNat 8 (0x30 + (n - 52))
  else if n = 62 then 0x2B#8
  else 0x2F#8

/-- `dec6`: the 6-bit value of a character, `none` for `invalid` (R65). -/
def dec6 (c : Byte) : Option Sextet :=
  let n := c.toNat
  if 0x41 ≤ n ∧ n ≤ 0x5A then some (BitVec.ofNat 6 (n - 0x41))
  else if 0x61 ≤ n ∧ n ≤ 0x7A then some (BitVec.ofNat 6 (n - 0x61 + 26))
  else if 0x30 ≤ n ∧ n ≤ 0x39 then some (BitVec.ofNat 6 (n - 0x30 + 52))
  else if n = 0x2B then some 62#6
  else if n = 0x2F then some 63#6
  else none

/-- The padding character `=` (R64). -/
def pad : Byte := 0x3D#8

/-- V = (B0 << 16) | (B1 << 8) | B2: the first byte is the most significant (R62). -/
def packGroup (b0 b1 b2 : Byte) : Group :=
  (b0.setWidth 24 <<< 16) ||| (b1.setWidth 24 <<< 8) ||| b2.setWidth 24

/-- The character of V[lo+5:lo] (R62). -/
def sliceChar (v : Group) (lo : Nat) : Byte := enc6 (v.extractLsb' lo 6)

/-- byte1 = ((s0 << 2) | (s1 >> 4)) & 0xFF (R66). -/
def outByte1 (s0 s1 : Sextet) : Byte := ((s0.setWidth 16 <<< 2) ||| (s1.setWidth 16 >>> 4)).setWidth 8

/-- byte2 = ((s1 << 4) | (s2 >> 2)) & 0xFF (R66). -/
def outByte2 (s1 s2 : Sextet) : Byte := ((s1.setWidth 16 <<< 4) ||| (s2.setWidth 16 >>> 2)).setWidth 8

/-- byte3 = ((s2 << 6) | s3) & 0xFF (R66). -/
def outByte3 (s2 s3 : Sextet) : Byte := ((s2.setWidth 16 <<< 6) ||| s3.setWidth 16).setWidth 8

/-- KEYLEN (R25): the number of key bytes loaded. -/
def State.keylen (s : State) : Nat := s.key.length

/-- `KeyRead(KIDX)` (R61), handed to the rest of the command. An entry that does not exist is a model fault, never a value
(R232). -/
def withKeyByte (s : State) (k : Byte → Result) : Result :=
  match s.key[s.kidx]? with
  | some code => k code
  | none => .fault .keyReadPastEnd

end Sys2Proof.Machine
end

