-- ==== Sys2Proof/Machine/Flags.lean ====
section
/-! DEFINITION. The status flags: the bits of ERR and ERRCODE (10_state.md R30) and the STATUS word (R44). No command sets a
flag as a side effect of computing (R30). -/

namespace Sys2Proof.Machine

open Sys2Proof

/-- The three bits of ERRCODE (R30). -/
def ErrCode.bits : ErrCode → BitVec 3
  | .none        => 0#3
  | .illegal     => 1#3
  | .keyOverflow => 2#3
  | .noKey       => 3#3
  | .outOverrun  => 4#3

/-- STATUS (R44): [31:24] zero, OUTLVL [23:8], DEC_N [7:6], ENC_N [5:4], ERRCODE [3:1], ERR [0]. -/
def statusWord (s : State) : Word :=
  0#8 ++ BitVec.ofNat 16 s.outq.length ++ BitVec.ofNat 2 s.decN.val ++ BitVec.ofNat 2 s.encN.val ++ s.errcode.bits
    ++ BitVec.ofBool s.err

end Sys2Proof.Machine
end

