-- ==== Sys2Proof/Machine/Ops.lean ====
section
/-! DEFINITION. The named operations over the state: the output queue (10_state.md R29), the key store (20_memory.md R61), fault
entry (60_exceptions.md R205), the return from a fault (R207, R191), and the checks every command passes (R200). -/

namespace Sys2Proof.Machine

open Sys2Proof

/-- `emit(b0, ..., bk)`: append to OUTQ in the order written (00_scope.md R10). -/
def State.emit (s : State) (bs : List Byte) : State := { s with outq := s.outq ++ bs }

/-- The free places of OUTQ (R200 step 6). On naturals: a queue over its capacity, in no reachable state, has none. -/
def State.free (s : State) : Nat := s.cfg.outDepth - s.outq.length

/-- `KeyWrite(KEYLEN, v)` and KEYLEN <- KEYLEN + 1 (R61, R162). -/
def State.appendKey (s : State) (k : Byte) : State := { s with key := s.key ++ [k] }

/-- KEYLEN <- 0. The old entries become unreachable, and R161 lets a model forget them (log entry 1). -/
def State.clearKey (s : State) : State := { s with key := [] }

/-- Fault entry, `raise Fault(code)`: ERR and ERRCODE, and no other element (R205). -/
def State.raiseFault (s : State) (c : ErrCode) : State := { s with err := true, errcode := c }

/-- The return from a fault, which is `RST` (R207): every element to its reset value, KEYMEM unreachable (R191). The accesses
pending and the values returned are the host's and stay. -/
def State.softReset (s : State) : State :=
  { s with
    encN := 0, encB0 := 0, encB1 := 0
    decN := 0, decS0 := 0, decS1 := 0, decS2 := 0, dcnt := 0
    key := [], kidx := 0, ofs := 0
    outq := [], err := false, errcode := .none }

/-- Hardware reset (R230, R231): the reset state of the same unit; the host's side stays. -/
def State.hardwareReset (s : State) : State :=
  { State.initial s.cfg with pending := s.pending, returned := s.returned }

/-- The execution of a command after decoding (R200 steps 2 to 7): ignored while ERR = 1; `own` is the command's own fault,
if its condition holds (steps 3 to 5); then `e` emitted bytes must fit (step 6); then the pseudocode runs (step 7). -/
def attempt (own : Option ErrCode) (e : Nat) (body : Result) (s : State) : Result :=
  if s.err then .next s
  else
    match own with
    | some c => .next (s.raiseFault c)
    | none => if s.free < e then .next (s.raiseFault .outOverrun) else body

/-- What a command's pseudocode does: the bytes it emits, and the other elements after it (R10). -/
structure Effect where
  out   : List Byte
  after : State
  deriving DecidableEq, Repr

/-- A command with no condition of its own: the checks of R200, then its effect. -/
def runEffect (eff : Effect) (s : State) : Result :=
  attempt none eff.out.length (.next (eff.after.emit eff.out)) s

end Sys2Proof.Machine
end

