-- ==== Sys2Proof/Machine/Braid.lean ====
section
/-! DEFINITION. The braid cipher commands (43_braid_cipher.md R170 to R177): the remainder, the decision table, the adder, and
`BRD.INIT`, `BRD.ENC`, `BRD.DEC`, `BRD.OFS`. -/

namespace Sys2Proof.Machine

open Sys2Proof

/-- The four offsets (00_scope.md R7, R172). -/
inductive Offset where
  | plus3
  | minus2
  | minus1
  | plus2
  deriving DecidableEq, Repr

/-- The integer an offset is (R7). -/
def Offset.value : Offset → Int
  | .plus3  => 3
  | .minus2 => -2
  | .minus1 => -1
  | .plus2  => 2

/-- `sext_8(o)` = o mod 256 (00_scope.md R9). -/
def Offset.sext8 (o : Offset) : Byte := BitVec.ofInt 8 o.value

/-- m = code mod L, both unsigned (R171; log entry 7). -/
def remainder (code : Byte) (l : Nat) : Nat := code.toNat % l

/-- The decision table, in its order (R172). -/
def offset (code : Byte) (l : Nat) : Offset :=
  let m := remainder code l
  if m = 0 then .plus3
  else if m = 1 then .minus2
  else if m % 2 = 0 then .minus1
  else .plus2

/-- (m + o) mod 256, from the integer sum (R177). -/
def addOffset (m : Byte) (o : Offset) : Byte := BitVec.ofInt 8 ((m.toNat : Int) + o.value)

/-- (c - o) mod 256, from the integer difference (R177). -/
def subOffset (c : Byte) (o : Offset) : Byte := BitVec.ofInt 8 ((c.toNat : Int) - o.value)

/-- NO_KEY where no key is loaded (R203). -/
def needsKey (s : State) : Option ErrCode := if s.keylen = 0 then some .noKey else none

/-- The next key index: 0 if KIDX + 1 = KEYLEN, else KIDX + 1 (R174). -/
def nextKidx (s : State) : Nat := if s.kidx + 1 = s.keylen then 0 else s.kidx + 1

/-- A data command of the cipher (R174, R175): the byte made by `f` from the offset is emitted, OFS records the offset and the
position advances. -/
def braidData (f : Offset → Byte) (s : State) : Result :=
  attempt (needsKey s) 1
    (withKeyByte s fun code =>
      let o := offset code s.keylen
      .next ({ s with ofs := o.sext8, kidx := nextKidx s }.emit [f o])) s

/-- `BRD.INIT` (R173). -/
def execBrdInit (s : State) : Result := runEffect { out := [], after := { s with kidx := 0 } } s

/-- `BRD.ENC m` (R174). -/
def execBrdEnc (m : Byte) (s : State) : Result := braidData (addOffset m) s

/-- `BRD.DEC c` (R175). -/
def execBrdDec (c : Byte) (s : State) : Result := braidData (subOffset c) s

/-- `BRD.OFS` (R176). -/
def execBrdOfs (s : State) : Result :=
  attempt (needsKey s) 0 (withKeyByte s fun code => .next { s with ofs := (offset code s.keylen).sext8 }) s

end Sys2Proof.Machine
end

