-- ==== Sys2Proof/Machine/Decoder.lean ====
section
/-! DEFINITION. The Base64 decoder commands (41_base64_decoder.md R141 to R143). -/

namespace Sys2Proof.Machine

open Sys2Proof

/-- The group buffer emptied (R141, R142, R143). -/
def State.clearDec (s : State) : State := { s with decN := 0, decS0 := 0, decS1 := 0, decS2 := 0 }

/-- DCNT <- (DCNT + k) mod 2^32 (R23). -/
def State.count (s : State) (k : Nat) : State := { s with dcnt := s.dcnt + BitVec.ofNat 32 k }

/-- The pseudocode of `B64D.PUT` for a character whose value is `v` (R142). -/
def decPutValueEffect (v : Sextet) (s : State) : Effect :=
  if s.decN = 0 then { out := [], after := { s with decS0 := v, decN := 1 } }
  else if s.decN = 1 then { out := [], after := { s with decS1 := v, decN := 2 } }
  else if s.decN = 2 then { out := [], after := { s with decS2 := v, decN := 3 } }
  else
    { out := [outByte1 s.decS0 s.decS1, outByte2 s.decS1 s.decS2, outByte3 s.decS2 v], after := s.clearDec.count 3 }

/-- The pseudocode of `B64D.PUT c` (R142): a character outside the alphabet changes nothing. -/
def decPutEffect (c : Byte) (s : State) : Effect :=
  match dec6 c with
  | none => { out := [], after := s }
  | some v => decPutValueEffect v s

/-- The bytes `B64D.END` flushes: 0, 1, 1 or 2 of them (R143). -/
def flushBytes (s : State) : List Byte :=
  let byte1 := outByte1 s.decS0 s.decS1
  let byte2 := outByte2 s.decS1 s.decS2
  if s.decN = 0 then []
  else if s.decN = 1 then [byte1]
  else if s.decN = 2 then [byte1]
  else [byte1, byte2]

/-- `B64D.INIT` (R141). -/
def execB64dInit (s : State) : Result := runEffect { out := [], after := { s.clearDec with dcnt := 0 } } s

/-- `B64D.PUT c` (R142). -/
def execB64dPut (c : Byte) (s : State) : Result := runEffect (decPutEffect c s) s

/-- `B64D.END` (R143). -/
def execB64dEnd (s : State) : Result :=
  runEffect { out := flushBytes s, after := s.clearDec.count (flushBytes s).length } s

end Sys2Proof.Machine
end

