-- ==== Sys2Proof/Machine/Encoder.lean ====
section
/-! DEFINITION. The Base64 encoder commands (40_base64_encoder.md R121 to R123). -/

namespace Sys2Proof.Machine

open Sys2Proof

/-- The group buffer emptied (R121). -/
def State.clearEnc (s : State) : State := { s with encN := 0, encB0 := 0, encB1 := 0 }

/-- The pseudocode of `B64E.PUT d` (R122). -/
def encPutEffect (d : Byte) (s : State) : Effect :=
  if s.encN = 0 then { out := [], after := { s with encB0 := d, encN := 1 } }
  else if s.encN = 1 then { out := [], after := { s with encB1 := d, encN := 2 } }
  else
    let v := packGroup s.encB0 s.encB1 d
    { out := [sliceChar v 18, sliceChar v 12, sliceChar v 6, sliceChar v 0], after := s.clearEnc }

/-- The pseudocode of `B64E.END` (R123). -/
def encEndEffect (s : State) : Effect :=
  let v := packGroup s.encB0 s.encB1 0
  if s.encN = 1 then { out := [sliceChar v 18, sliceChar v 12, pad, pad], after := s.clearEnc }
  else if s.encN = 2 then { out := [sliceChar v 18, sliceChar v 12, sliceChar v 6, pad], after := s.clearEnc }
  else { out := [], after := s.clearEnc }

/-- `B64E.INIT` (R121). -/
def execB64eInit (s : State) : Result := runEffect { out := [], after := s.clearEnc } s

/-- `B64E.PUT d` (R122). -/
def execB64ePut (d : Byte) (s : State) : Result := runEffect (encPutEffect d s) s

/-- `B64E.END` (R123). -/
def execB64eEnd (s : State) : Result := runEffect (encEndEffect s) s

end Sys2Proof.Machine
end

