-- ==== Sys2Proof/Machine/KeyStore.lean ====
section
/-! DEFINITION. The key store commands (42_key_store.md R161, R162). -/

namespace Sys2Proof.Machine

open Sys2Proof

/-- KEY_OVERFLOW where the key store is full (R162, R202). -/
def keyStoreCheck (s : State) : Option ErrCode := if s.keylen = s.cfg.keyMax then some .keyOverflow else none

/-- `KEY.CLR` (R161). -/
def execKeyClr (s : State) : Result := runEffect { out := [], after := { s.clearKey with kidx := 0 } } s

/-- `KEY.PUT k` (R162). -/
def execKeyPut (k : Byte) (s : State) : Result :=
  attempt (keyStoreCheck s) 0 (.next { s.appendKey k with kidx := 0 }) s

end Sys2Proof.Machine
end

