-- ==== Sys2Proof/Machine/System.lean ====
section
/-! DEFINITION. The system commands `NOP` and `RST` (44_system_commands.md R190, R191). -/

namespace Sys2Proof.Machine

open Sys2Proof

/-- `NOP` (R190). -/
def execNop (s : State) : Result := runEffect { out := [], after := s } s

/-- `RST` (R191): executed whether ERR is 0 or 1 (R206). -/
def execRst (s : State) : Result := .next s.softReset

end Sys2Proof.Machine
end

