-- ==== Sys2Proof/Machine/Dispatch.lean ====
section
/-! DEFINITION. One arm per command: the execution of a decoded command word written to CMD (60_exceptions.md R200, steps 2 to
7). -/

namespace Sys2Proof.Machine

open Sys2Proof

def exec (i : Instr) (s : State) : Host.Outcome State Fault Refusal :=
  match i with
  | .nop => Sys2Proof.Machine.execNop s
  | .rst => Sys2Proof.Machine.execRst s
  | .b64eInit => Sys2Proof.Machine.execB64eInit s
  | .b64ePut d => Sys2Proof.Machine.execB64ePut d s
  | .b64eEnd => Sys2Proof.Machine.execB64eEnd s
  | .b64dInit => Sys2Proof.Machine.execB64dInit s
  | .b64dPut c => Sys2Proof.Machine.execB64dPut c s
  | .b64dEnd => Sys2Proof.Machine.execB64dEnd s
  | .keyClr => Sys2Proof.Machine.execKeyClr s
  | .keyPut k => Sys2Proof.Machine.execKeyPut k s
  | .brdInit => Sys2Proof.Machine.execBrdInit s
  | .brdEnc m => Sys2Proof.Machine.execBrdEnc m s
  | .brdDec c => Sys2Proof.Machine.execBrdDec c s
  | .brdOfs => Sys2Proof.Machine.execBrdOfs s

end Sys2Proof.Machine
end

