-- ==== Sys2Proof/Machine/Access.lean ====
section
/-! DEFINITION. The host's accesses: writing a command word (60_exceptions.md R200), writing a register (10_state.md R41), reading
a register (R42 to R50), `DRAIN` (30_encoding.md R98) and hardware reset (70_reset_and_hazards.md R230). -/

namespace Sys2Proof.Machine

open Sys2Proof

/-- The register of a register number (R40); numbers above 7 do not exist (R51). -/
def HostReg.ofNumber (r : Nat) : Option HostReg :=
  match r with
  | 0 => some .cmd
  | 1 => some .status
  | 2 => some .out
  | 3 => some .dcnt
  | 4 => some .keylen
  | 5 => some .kidx
  | 6 => some .ofs
  | 7 => some .cap
  | _ => none

/-- A command word is decoded and executed; an illegal one raises ILLEGAL unless ERR = 1 (R200 steps 1 to 3, R201). -/
def runWord (v : Word) (s : State) : Result :=
  match decode v with
  | .legal i => exec i s
  | .illegal _ => attempt (some .illegal) 0 (.next s) s

/-- CAP: KEYMAX | (OUTDEPTH << 16) (R50). -/
def capWord (c : Config) : Word := BitVec.ofNat 32 (c.keyMax ||| (c.outDepth <<< 16))

/-- OUT: VALID and the head of the queue, or 0 where it is empty (R45). -/
def outWord (s : State) : Word :=
  match s.outq with
  | [] => 0#32
  | b :: _ => 0x100#32 ||| b.setWidth 32

/-- The value a read of a register returns, from the state before it (R42 to R50). -/
def readValue (g : HostReg) (s : State) : Word :=
  match g with
  | .cmd    => 0#32
  | .status => statusWord s
  | .out    => outWord s
  | .dcnt   => s.dcnt
  | .keylen => BitVec.ofNat 32 s.keylen
  | .kidx   => BitVec.ofNat 32 s.kidx
  | .ofs    => s.ofs.setWidth 32
  | .cap    => capWord s.cfg

/-- What a read does to the unit: a read of OUT removes the head of the queue, any other read nothing (R42, R45). -/
def readEffect (g : HostReg) (s : State) : State :=
  match g with
  | .out    => { s with outq := s.outq.tail }
  | .cmd    => s
  | .status => s
  | .dcnt   => s
  | .keylen => s
  | .kidx   => s
  | .ofs    => s
  | .cap    => s

/-- A value handed to the host (R42; log entry 4). -/
def State.giveBack (s : State) (g : HostReg) (v : Word) : State :=
  { s with returned := s.returned ++ [{ reg := g, value := v }] }

/-- `HostWrite(r, v)` (R41): CMD executes v, the registers 1 to 7 ignore it. -/
def hostWrite (r : Nat) (v : Word) (s : State) : Result :=
  match HostReg.ofNumber r with
  | none         => .refused (.noSuchRegister r)
  | some .cmd    => runWord v s
  | some .status => .next s
  | some .out    => .next s
  | some .dcnt   => .next s
  | some .keylen => .next s
  | some .kidx   => .next s
  | some .ofs    => .next s
  | some .cap    => .next s

/-- `HostRead(r)` (R42), whether ERR is 0 or 1. -/
def hostRead (r : Nat) (s : State) : Result :=
  match HostReg.ofNumber r with
  | none   => .refused (.noSuchRegister r)
  | some g => .next ((readEffect g s).giveBack g (readValue g s))

/-- `DRAIN` (R98): one read of OUT, and `DRAIN` again unless that read found the queue empty. -/
def drainRead (s : State) : Result :=
  match s.outq with
  | []     => hostRead 2 s
  | _ :: _ => hostRead 2 { s with pending := .drain :: s.pending }

/-- One access, one transition (00_scope.md R8, 20_memory.md R71). -/
def access (a : HostAccess) (s : State) : Result :=
  match a with
  | .write r v      => hostWrite r v s
  | .read r         => hostRead r s
  | .drain          => drainRead s
  | .hardwareReset  => .next s.hardwareReset

/-- The state with its first pending access taken off the list. -/
def State.takeAccess (s : State) : State := { s with pending := s.pending.tail }

/-- The next transition: the first pending access; with none pending the unit is idle and keeps all its state (R212). -/
def performNext (s : State) : Result :=
  match s.pending with
  | []     => .next s
  | a :: _ => access a s.takeAccess

end Sys2Proof.Machine
end

