-- ==== Sys2Proof/Machine/Step.lean ====
section
/-! DEFINITION. One step is one host access (00_scope.md R8). The unit fetches nothing (10_state.md R24): a command word reaches
it as a `HostWrite(0, v)` that stands first among the pending accesses. -/

namespace Sys2Proof.Machine

open Sys2Proof

/-- One transition of the unit. -/
def step (s : State) : Host.Outcome State Fault Refusal := performNext s

/-- The state whose next access writes the word to CMD. -/
def State.withFetchWord (s : State) (nbits w : Nat) : State :=
  { s with pending := .write 0 (tableWord nbits w) :: s.pending }

end Sys2Proof.Machine
end

