-- ==== Sys2Proof/Machine/Streams.lean ====
section
/-! DEFINITION. The functions of whole streams the spec defines (40_base64_encoder.md R124, 41_base64_decoder.md R144,
43_braid_cipher.md R179), the pseudo-commands (30_encoding.md R99), which are the command sequences of 00_scope.md R11 to R14,
and the execution of a sequence of commands. -/

namespace Sys2Proof.Machine

open Sys2Proof

/-- The four characters of a full group (R122, R124). -/
def encGroup (a b c : Byte) : List Byte :=
  [enc6 ((a >>> 2).setWidth 6), enc6 ((((a &&& 0x03#8) <<< 4) ||| (b >>> 4)).setWidth 6),
    enc6 ((((b &&& 0x0F#8) <<< 2) ||| (c >>> 6)).setWidth 6), enc6 ((c &&& 0x3F#8).setWidth 6)]

/-- The characters of a last group of one byte (R123, R124). -/
def encLastOne (a : Byte) : List Byte :=
  [enc6 ((a >>> 2).setWidth 6), enc6 (((a &&& 0x03#8) <<< 4).setWidth 6), pad, pad]

/-- The characters of a last group of two bytes (R123, R124). -/
def encLastTwo (a b : Byte) : List Byte :=
  [enc6 ((a >>> 2).setWidth 6), enc6 ((((a &&& 0x03#8) <<< 4) ||| (b >>> 4)).setWidth 6),
    enc6 (((b &&& 0x0F#8) <<< 2).setWidth 6), pad]

/-- `Enc` (R124), the source's `Encode` (R11). -/
def encText : List Byte → List Byte
  | []               => []
  | [a]              => encLastOne a
  | [a, b]           => encLastTwo a b
  | a :: b :: c :: x => encGroup a b c ++ encText x

/-- `valid(t)`: the 6-bit values of the valid characters, in order (R144). -/
def validValues (t : List Byte) : List Sextet := t.filterMap dec6

/-- `Unp` (R144). -/
def unpackText : List Sextet → List Byte
  | []                       => []
  | [s0]                     => [s0.setWidth 8 <<< 2]
  | [s0, s1]                 => [outByte1 s0 s1]
  | [s0, s1, s2]             => [outByte1 s0 s1, outByte2 s1 s2]
  | s0 :: s1 :: s2 :: s3 :: x => [outByte1 s0 s1, outByte2 s1 s2, outByte3 s2 s3] ++ unpackText x

/-- `Dec` (R144), the source's `Decode` (R12). -/
def decText (t : List Byte) : List Byte := unpackText (validValues t)

/-- `off(K, p)`: the offset of position p >= 1 under a non-empty key (R179), the source's `GetBraidOffset` (R13). -/
def braidOffset (k : List Byte) (hk : k ≠ []) (p : Nat) : Offset :=
  offset (k[(p - 1) % k.length]'(Nat.mod_lt _ (List.length_pos_of_ne_nil hk))) k.length

/-- Each byte combined with the offset of its position, the first byte at position p (R179). -/
def braidFrom (f : Byte → Offset → Byte) (k : List Byte) (hk : k ≠ []) : Nat → List Byte → List Byte
  | _, []     => []
  | p, b :: x => f b (braidOffset k hk p) :: braidFrom f k hk (p + 1) x

/-- `BrE` (R179), the source's `Encrypt` (R14). -/
def encryptText (k : List Byte) (hk : k ≠ []) (x : List Byte) : List Byte := braidFrom addOffset k hk 1 x

/-- `BrD` (R179), the source's `Decrypt` (R14). -/
def decryptText (k : List Byte) (hk : k ≠ []) (x : List Byte) : List Byte := braidFrom subOffset k hk 1 x

/-- The pseudo-commands (R99). -/
inductive Pseudo where
  | b64eStr (x : List Byte)
  | b64dStr (t : List Byte)
  | keyLoad (k : List Byte)
  | brdEncs (x : List Byte)
  | brdDecs (x : List Byte)
  | encode (x : List Byte)
  | decode (t : List Byte)
  | encrypt (x k : List Byte)
  | decrypt (x k : List Byte)
  deriving DecidableEq, Repr

/-- `KEY.LOAD k` (R99). -/
def keyLoadCommands (k : List Byte) : List Instr := [.keyClr] ++ k.map .keyPut ++ [.brdInit]

/-- The expansion of a pseudo-command (R99). -/
def Pseudo.expand : Pseudo → List Instr
  | .b64eStr x   => x.map .b64ePut
  | .b64dStr t   => t.map .b64dPut
  | .keyLoad k   => keyLoadCommands k
  | .brdEncs x   => x.map .brdEnc
  | .brdDecs x   => x.map .brdDec
  | .encode x    => [.b64eInit] ++ x.map .b64ePut ++ [.b64eEnd]
  | .decode t    => [.b64dInit] ++ t.map .b64dPut ++ [.b64dEnd]
  | .encrypt x k => keyLoadCommands k ++ x.map .brdEnc
  | .decrypt x k => keyLoadCommands k ++ x.map .brdDec

/-- The commands as writes to CMD (R98). -/
def commandWrites (l : List Instr) : List HostAccess := l.map fun i => .write 0 (encode i)

/-- A sequence of commands executed one after the other. -/
def execAll : List Instr → State → Result
  | [], s => .next s
  | i :: l, s =>
    match exec i s with
    | .next t    => execAll l t
    | .fault f   => .fault f
    | .refused r => .refused r

end Sys2Proof.Machine
end

