-- ==== Sys2Proof/Machine/Assembler.lean ====
section
/-! DEFINITION. The text form of commands, host programs and pseudo-commands (30_encoding.md R97 to R99), one line at a time,
on lists of characters. What the rules leave open of the text is in log entry 9. -/

namespace Sys2Proof.Machine

open Sys2Proof

/-- A space or a tab between the parts of a line. -/
def isBlank (c : Char) : Bool := c = ' ' || c = '\t'

/-- The line without its leading blanks. -/
def dropBlanks (cs : List Char) : List Char := cs.dropWhile isBlank

/-- Nothing is left of the line, or a comment (R97). -/
def atLineEnd (cs : List Char) : Bool :=
  match dropBlanks cs with
  | []     => true
  | c :: _ => c = ';'

/-- The rest of the line after the given word, if the line begins with it. -/
def afterWord (w cs : List Char) : Option (List Char) := if w.isPrefixOf cs then some (cs.drop w.length) else none

/-- The arguments that follow a name: the name ends at a blank, at a comment or at the line's end, and any blanks after it are
dropped (DESIGN CHOICE, log entry 9). -/
def argumentsAfter (w cs : List Char) : Option (List Char) :=
  match afterWord w cs with
  | none           => none
  | some []        => some []
  | some (c :: cs) => if isBlank c || c = ';' then some (dropBlanks (c :: cs)) else none

/-- The value of a decimal digit. -/
def decimalDigit (c : Char) : Option Nat := if 48 ≤ c.toNat ∧ c.toNat ≤ 57 then some (c.toNat - 48) else none

/-- The value of a hexadecimal digit, in either case. -/
def hexDigit (c : Char) : Option Nat :=
  if 48 ≤ c.toNat ∧ c.toNat ≤ 57 then some (c.toNat - 48)
  else if 65 ≤ c.toNat ∧ c.toNat ≤ 70 then some (c.toNat - 55)
  else if 97 ≤ c.toNat ∧ c.toNat ≤ 102 then some (c.toNat - 87)
  else none

/-- The value of two hexadecimal digits. -/
def hexPair (h l : Char) : Option Nat :=
  match hexDigit h, hexDigit l with
  | some a, some b => some (16 * a + b)
  | _, _           => none

/-- The value of the leading decimal digits, added to `n` so far, and the rest of the line. -/
def decimalNumber (n : Nat) : List Char → Nat × List Char
  | [] => (n, [])
  | c :: cs =>
    match decimalDigit c with
    | some d => decimalNumber (10 * n + d) cs
    | none   => (n, c :: cs)

/-- `0x00` .. `0xFF` (R97). -/
def hexOperand (cs : List Char) : Option (Nat × List Char) :=
  match afterWord ['0', 'x'] cs with
  | some (h :: l :: rest) => (hexPair h l).map fun n => (n, rest)
  | _ => none

/-- One printable ASCII character in single quotes (R97). -/
def quotedOperand (cs : List Char) : Option (Nat × List Char) :=
  match cs with
  | q :: c :: r :: rest =>
    if q.toNat = 39 ∧ r.toNat = 39 ∧ 32 ≤ c.toNat ∧ c.toNat ≤ 126 then some (c.toNat, rest) else none
  | _ => none

/-- A decimal number 0 .. 255 (R97). -/
def decimalOperand (cs : List Char) : Option (Nat × List Char) :=
  match cs with
  | c :: _ =>
    let r := decimalNumber 0 cs
    if (decimalDigit c).isSome ∧ r.1 ≤ 255 then some r else none
  | [] => none

/-- An operand in one of its three forms (R97), alone on the rest of the line. -/
def operandText (cs : List Char) : Option Byte :=
  match (quotedOperand cs).or ((hexOperand cs).or (decimalOperand cs)) with
  | some (n, rest) => if atLineEnd rest then some (BitVec.ofNat 8 n) else none
  | none           => none

/-- The command of the same opcode with the given operand, where it takes one (R93). -/
def withOperand (i : Instr) (d : Byte) : Instr :=
  match i with
  | .nop       => .nop
  | .rst       => .rst
  | .b64eInit  => .b64eInit
  | .b64ePut _ => .b64ePut d
  | .b64eEnd   => .b64eEnd
  | .b64dInit  => .b64dInit
  | .b64dPut _ => .b64dPut d
  | .b64dEnd   => .b64dEnd
  | .keyClr    => .keyClr
  | .keyPut _  => .keyPut d
  | .brdInit   => .brdInit
  | .brdEnc _  => .brdEnc d
  | .brdDec _  => .brdDec d
  | .brdOfs    => .brdOfs

/-- The command written on a line after the mnemonic of `i`: its operand, or nothing (R97). -/
def commandRest (i : Instr) (rest : List Char) : Option Instr :=
  if takesOperand i.fields.op then
    match rest with
    | c :: cs => if isBlank c then (operandText (dropBlanks cs)).map (withOperand i) else none
    | []      => none
  else if atLineEnd rest then some i
  else none

/-- A line that holds one command (R97). -/
def parseCommand (line : List Char) : Option Instr :=
  let cs := dropBlanks line
  oneOfEach.findSome? fun i => (afterWord i.row.name cs).bind (commandRest i)

/-- The names of the registers (R40, R98). -/
def regNames : List (List Char × Nat) :=
  [(['C', 'M', 'D'], 0), (['S', 'T', 'A', 'T', 'U', 'S'], 1), (['O', 'U', 'T'], 2), (['D', 'C', 'N', 'T'], 3),
    (['K', 'E', 'Y', 'L', 'E', 'N'], 4), (['K', 'I', 'D', 'X'], 5), (['O', 'F', 'S'], 6), (['C', 'A', 'P'], 7)]

/-- After `RD <REG>` stands nothing, a comment, or an arrow with a note of the value (R98). The note is a remark for the reader:
whatever stands after the arrow is accepted and dropped, neither read as a number nor compared with the value the read returns
(DESIGN CHOICE, log entry 9). -/
def readNote (cs : List Char) : Bool := atLineEnd cs || ['-', '>'].isPrefixOf (dropBlanks cs)

/-- `RD <REG>` (R98), after its `RD`. -/
def parseRead (cs : List Char) : Option HostAccess :=
  regNames.findSome? fun p => (afterWord p.1 (dropBlanks cs)).bind fun rest => if readNote rest then some (.read p.2) else none

/-- The characters up to the closing quote (code 34) as their ASCII codes, and the rest of the line (R99). -/
def quotedTail : List Char → Option (List Byte × List Char)
  | [] => none
  | c :: cs =>
    if c.toNat = 34 then some ([], cs)
    else if c.toNat ≤ 127 then (quotedTail cs).map fun r => (BitVec.ofNat 8 c.toNat :: r.1, r.2)
    else none

/-- A list of hexadecimal bytes and the rest of the line (R99). R99 does not say how a byte of the list is written: two digits,
alone as in 95_test_vectors.md or after `0x` as in R97, are accepted, and blanks may stand between bytes (DESIGN CHOICE, log
entry 9). -/
def hexBytes : List Char → List Byte × List Char
  | [] => ([], [])
  | [c] => ([], [c])
  | h :: l :: cs =>
    if isBlank h then hexBytes (l :: cs)
    else
      match hexPair h l with
      | some n => (BitVec.ofNat 8 n :: (hexBytes cs).1, (hexBytes cs).2)
      | none =>
        match cs with
        | a :: c :: rest =>
          match if h = '0' && l = 'x' then hexPair a c else none with
          | some n => (BitVec.ofNat 8 n :: (hexBytes rest).1, (hexBytes rest).2)
          | none   => ([], h :: l :: a :: c :: rest)
        | _ => ([], h :: l :: cs)

/-- A sequence of bytes: a quoted string or a list of hexadecimal bytes (R99). -/
def parseBytes (cs : List Char) : Option (List Byte × List Char) :=
  match dropBlanks cs with
  | [] => some ([], [])
  | c :: rest => if c.toNat = 34 then quotedTail rest else some (hexBytes (c :: rest))

/-- The arguments of a pseudo-command: one sequence (R99). -/
def oneSequence (mk : List Byte → Pseudo) (cs : List Char) : Option Pseudo :=
  (parseBytes cs).bind fun r => if atLineEnd r.2 then some (mk r.1) else none

/-- The arguments of a pseudo-command: two sequences with a comma between them (R99). -/
def twoSequences (mk : List Byte → List Byte → Pseudo) (cs : List Char) : Option Pseudo :=
  (parseBytes cs).bind fun r =>
    match dropBlanks r.2 with
    | [] => none
    | c :: rest => if c = ',' then oneSequence (mk r.1) rest else none

/-- The names of the pseudo-commands, each with the reader of its arguments (R99). -/
def pseudoNames : List (List Char × (List Char → Option Pseudo)) :=
  [(['B', '6', '4', 'E', '.', 'S', 'T', 'R'], oneSequence .b64eStr),
    (['B', '6', '4', 'D', '.', 'S', 'T', 'R'], oneSequence .b64dStr),
    (['K', 'E', 'Y', '.', 'L', 'O', 'A', 'D'], oneSequence .keyLoad),
    (['B', 'R', 'D', '.', 'E', 'N', 'C', 'S'], oneSequence .brdEncs),
    (['B', 'R', 'D', '.', 'D', 'E', 'C', 'S'], oneSequence .brdDecs),
    (['E', 'N', 'C', 'O', 'D', 'E'], oneSequence .encode),
    (['D', 'E', 'C', 'O', 'D', 'E'], oneSequence .decode),
    (['E', 'N', 'C', 'R', 'Y', 'P', 'T'], twoSequences .encrypt),
    (['D', 'E', 'C', 'R', 'Y', 'P', 'T'], twoSequences .decrypt)]

/-- A line that holds one pseudo-command (R99). -/
def parsePseudo (line : List Char) : Option Pseudo :=
  pseudoNames.findSome? fun p => (argumentsAfter p.1 (dropBlanks line)).bind p.2

/-- The eight digits of a word written as a number, as the programs of 95_test_vectors.md write one. -/
def hexWord (cs : List Char) : Option Word :=
  match (afterWord ['0', 'x'] (dropBlanks cs)).map fun r => (r.take 8, r.drop 8) with
  | some (ds, rest) =>
    match ds.mapM hexDigit with
    | some ns => if ns.length = 8 ∧ atLineEnd rest then some (BitVec.ofNat 32 (ns.foldl (fun a d => 16 * a + d) 0)) else none
    | none    => none
  | none => none

/-- A command or a pseudo-command as its writes to CMD (R98, R99). -/
def parseCommands (line : List Char) : Option (List HostAccess) :=
  ((parseCommand line).map fun i => commandWrites [i]).or ((parsePseudo line).map fun p => commandWrites p.expand)

/-- What is written to CMD: a command after a comma (R98), or, after a blank, a word as a number (log entry 9). -/
def parseWrite (cs : List Char) : Option (List HostAccess) :=
  match dropBlanks cs with
  | ',' :: rest => (parseCommand rest).map fun i => commandWrites [i]
  | _           => ((argumentsAfter [] cs).bind hexWord).map fun v => [.write 0 v]

/-- A line of a host program (R98): nothing, `WR CMD, <command>`, `RD <REG>`, `DRAIN`, a bare command, or a pseudo-command
(R99). Between two parts of a line any number of spaces and tabs may stand (DESIGN CHOICE, log entry 9). -/
def parseLine (line : List Char) : Option (List HostAccess) :=
  let cs := dropBlanks line
  if atLineEnd cs then some []
  else
    match argumentsAfter ['W', 'R'] cs with
    | some rest => (afterWord ['C', 'M', 'D'] rest).bind parseWrite
    | none =>
      match argumentsAfter ['R', 'D'] cs with
      | some rest => (parseRead rest).map fun a => [a]
      | none =>
        match afterWord ['D', 'R', 'A', 'I', 'N'] cs with
        | some rest => if atLineEnd rest then some [.drain] else none
        | none      => parseCommands cs

end Sys2Proof.Machine
end

