-- ==== Sys2Proof/Machine/Emission.lean ====
section
/-! DEFINITION. The emission count table (10_state.md R33), written from the table and apart from the commands' pseudocode. -/

namespace Sys2Proof.Machine

open Sys2Proof

/-- The number of bytes a command appends to OUTQ when it does not fault (R33). -/
def emissionCount (i : Instr) (s : State) : Nat :=
  match i with
  | .nop       => 0
  | .rst       => 0
  | .b64eInit  => 0
  | .b64ePut _ => if s.encN = 2 then 4 else 0
  | .b64eEnd   => if s.encN = 1 ∨ s.encN = 2 then 4 else 0
  | .b64dInit  => 0
  | .b64dPut c => if dec6 c ≠ none ∧ s.decN = 3 then 3 else 0
  | .b64dEnd   => if s.decN = 0 then 0 else if s.decN = 1 ∨ s.decN = 2 then 1 else 2
  | .keyClr    => 0
  | .keyPut _  => 0
  | .brdInit   => 0
  | .brdEnc _  => 1
  | .brdDec _  => 1
  | .brdOfs    => 0

/-- The fault a command meets when ERR = 0: the conditions of R202, R203 and R204 in the order of R200. -/
def faultOf (i : Instr) (s : State) : ErrCode :=
  match i with
  | .nop       => .none
  | .rst       => .none
  | .b64eInit  => .none
  | .b64ePut _ => if s.encN = 2 ∧ s.free < 4 then .outOverrun else .none
  | .b64eEnd   => if (s.encN = 1 ∨ s.encN = 2) ∧ s.free < 4 then .outOverrun else .none
  | .b64dInit  => .none
  | .b64dPut c => if dec6 c ≠ none ∧ s.decN = 3 ∧ s.free < 3 then .outOverrun else .none
  | .b64dEnd   =>
    if (s.decN = 1 ∨ s.decN = 2) ∧ s.free < 1 ∨ s.decN = 3 ∧ s.free < 2 then .outOverrun else .none
  | .keyClr    => .none
  | .keyPut _  => if s.keylen = s.cfg.keyMax then .keyOverflow else .none
  | .brdInit   => .none
  | .brdEnc _  => if s.keylen = 0 then .noKey else if s.free < 1 then .outOverrun else .none
  | .brdDec _  => if s.keylen = 0 then .noKey else if s.free < 1 then .outOverrun else .none
  | .brdOfs    => if s.keylen = 0 then .noKey else .none

end Sys2Proof.Machine
end

