-- ==== Sys2Proof/Safety.lean ====
section
/-! DEFINITION. What claims are stated in: the invariant of 10_state.md R32, the good end of a run (70_reset_and_hazards.md R246),
the bytes the host collected, and the parts of the state each engine owns (00_scope.md R2). -/

namespace Sys2Proof.Machine

open Sys2Proof

/-- R32 (a): the encoder's unused bytes are zero. -/
abbrev State.EncClean (s : State) : Prop :=
  (s.encN = 0 → s.encB0 = 0 ∧ s.encB1 = 0) ∧ (s.encN = 1 → s.encB1 = 0)

/-- R32 (b): the decoder's unused slots are zero. -/
abbrev State.DecClean (s : State) : Prop :=
  (s.decN.val ≤ 0 → s.decS0 = 0) ∧ (s.decN.val ≤ 1 → s.decS1 = 0) ∧ (s.decN.val ≤ 2 → s.decS2 = 0)

/-- R32 (c), and KEYLEN <= KEYMAX (R25). Part (e) of R32 holds by the form of the state: the key holds the bytes put. -/
abbrev State.KeyIndexed (s : State) : Prop :=
  (s.keylen = 0 → s.kidx = 0) ∧ (1 ≤ s.keylen → s.kidx < s.keylen) ∧ s.keylen ≤ s.cfg.keyMax

/-- R32 (d). -/
abbrev State.QueueBounded (s : State) : Prop := s.outq.length ≤ s.cfg.outDepth

/-- R32 (f). -/
abbrev State.FlagsAgree (s : State) : Prop := s.err = false ↔ s.errcode = .none

/-- R32 (g). -/
abbrev State.OfsLegal (s : State) : Prop := s.ofs ∈ [0x00#8, 0x02#8, 0x03#8, 0xFE#8, 0xFF#8]

/-- R32 (a) to (g), with the ranges of the parameters (R5, R6). -/
abbrev State.Inv (s : State) : Prop :=
  s.cfg.WellFormed ∧ s.EncClean ∧ s.DecClean ∧ s.KeyIndexed ∧ s.QueueBounded ∧ s.FlagsAgree ∧ s.OfsLegal

/-- A run is over, in a good end state (R246). -/
abbrev State.GoodEnd (s : State) : Prop := s.pending = [] ∧ s.err = false

/-- The byte a returned value delivers: a read of OUT with VALID = 1 (R45, R98). -/
def ReadBack.byte (r : ReadBack) : Option Byte :=
  if r.reg = .out ∧ r.value.getLsbD 8 then some (r.value.setWidth 8) else none

/-- The bytes the host has collected from OUT so far, and those still in OUTQ, in order (R246). -/
def State.delivered (s : State) : List Byte := s.returned.filterMap ReadBack.byte ++ s.outq

/-- A write or a read of one of the eight registers; no `DRAIN`, no hardware reset. -/
def HostAccess.isPlain : HostAccess → Bool
  | .write r _     => r < 8
  | .read r        => r < 8
  | .drain         => false
  | .hardwareReset => false

/-- The word a host access writes to CMD. -/
def HostAccess.cmdWord : HostAccess → Option Word
  | .write r v     => if r = 0 then some v else none
  | .read _        => none
  | .drain         => none
  | .hardwareReset => none

/-- The words a list of accesses writes to CMD, in order (R71). -/
def cmdWords (l : List HostAccess) : List Word := l.filterMap HostAccess.cmdWord

/-- A list of plain accesses whose writes to CMD are the given commands; reads, and writes to other registers, may stand
anywhere between them (R240). -/
abbrev Carries (l : List HostAccess) (cmds : List Instr) : Prop :=
  l.all HostAccess.isPlain = true ∧ cmdWords l = cmds.map encode

/-- What B64E commands read and write (R2): the group buffer, and the shared queue and flags. -/
def State.encView (s : State) := (s.cfg, s.encN, s.encB0, s.encB1, s.outq, s.err, s.errcode)

/-- What B64D commands read and write (R2). -/
def State.decView (s : State) := (s.cfg, s.decN, s.decS0, s.decS1, s.decS2, s.dcnt, s.outq, s.err, s.errcode)

/-- What KEY and BRD commands read and write (R2). -/
def State.brdView (s : State) := (s.cfg, s.key, s.kidx, s.ofs, s.outq, s.err, s.errcode)

/-- The commands of the B64E engine (R93). -/
def isEncoderCommand : Instr → Bool
  | .nop       => false
  | .rst       => false
  | .b64eInit  => true
  | .b64ePut _ => true
  | .b64eEnd   => true
  | .b64dInit  => false
  | .b64dPut _ => false
  | .b64dEnd   => false
  | .keyClr    => false
  | .keyPut _  => false
  | .brdInit   => false
  | .brdEnc _  => false
  | .brdDec _  => false
  | .brdOfs    => false

/-- The commands of the B64D engine (R93). -/
def isDecoderCommand : Instr → Bool
  | .nop       => false
  | .rst       => false
  | .b64eInit  => false
  | .b64ePut _ => false
  | .b64eEnd   => false
  | .b64dInit  => true
  | .b64dPut _ => true
  | .b64dEnd   => true
  | .keyClr    => false
  | .keyPut _  => false
  | .brdInit   => false
  | .brdEnc _  => false
  | .brdDec _  => false
  | .brdOfs    => false

/-- The commands of the BRD engine, its key side included (R93). -/
def isBraidCommand : Instr → Bool
  | .nop       => false
  | .rst       => false
  | .b64eInit  => false
  | .b64ePut _ => false
  | .b64eEnd   => false
  | .b64dInit  => false
  | .b64dPut _ => false
  | .b64dEnd   => false
  | .keyClr    => true
  | .keyPut _  => true
  | .brdInit   => true
  | .brdEnc _  => true
  | .brdDec _  => true
  | .brdOfs    => true

end Sys2Proof.Machine
end

