-- ==== Sys2Proof/Certificates/Slice0/Obligations.lean ====
section
/-! DEFINITION. The statements for the provers, each from the spec's numbered rules. A premise such as `exec i s = .next t` is
about the outcome; a conclusion `exec i s = .next …` says that the command completes. -/

open Sys2Proof Sys2Proof.Machine

/-! ### Encoding -/

/-- R90, R93, R94: a word decodes to a command exactly when it is that command's encoding; no bit of the word is dropped. -/
def Obligations.DecodeReadsExactlyTheEncodedWord : Prop :=
  ∀ (v : Word) (i : Instr), decode v = .legal i ↔ encode i = v

/-- R93: the match and mask values of the opcode map; a legal word selects its command's row and no other, an illegal word
selects none. -/
def Obligations.EveryWordSelectsAtMostOneRow : Prop :=
  (opcodeMap.map fun r => (r.word, r.mask)) =
      [(0x00000000#32, 0xFFFFFFFF#32), (0x00000100#32, 0xFFFFFFFF#32), (0x00000200#32, 0xFFFFFFFF#32),
        (0x00000300#32, 0xFFFFFF00#32), (0x00000400#32, 0xFFFFFFFF#32), (0x00000500#32, 0xFFFFFFFF#32),
        (0x00000600#32, 0xFFFFFF00#32), (0x00000700#32, 0xFFFFFFFF#32), (0x00000800#32, 0xFFFFFFFF#32),
        (0x00000900#32, 0xFFFFFF00#32), (0x00000A00#32, 0xFFFFFFFF#32), (0x00000B00#32, 0xFFFFFF00#32),
        (0x00000C00#32, 0xFFFFFF00#32), (0x00000D00#32, 0xFFFFFFFF#32)] ∧
    ∀ v : Word,
      (∀ i, decode v = .legal i → opcodeMap.filter (fun r => r.selects v) = [i.row]) ∧
        (∀ w, decode v = .illegal w → opcodeMap.filter (fun r => r.selects v) = [])

/-- R94: the decoding procedure in terms of the word's fields as numbers, and the count of the legal words. -/
def Obligations.DecodeFollowsTheProcedureAndAccepts1289Words : Prop :=
  (∀ v : Word, v.toNat / 4096 ≠ 0 → ∃ w, decode v = .illegal w) ∧
    (∀ v : Word, v.toNat / 4096 = 0 → 14 ≤ v.toNat / 256 → ∃ w, decode v = .illegal w) ∧
    (∀ v : Word, v.toNat / 4096 = 0 → v.toNat / 256 ∈ [0x3, 0x6, 0x9, 0xB, 0xC] →
      ∃ i, decode v = .legal i ∧ i.fields.op.toNat = v.toNat / 256 ∧ i.fields.data.toNat = v.toNat % 256) ∧
    (∀ v : Word, v.toNat / 4096 = 0 → v.toNat / 256 ∈ [0x0, 0x1, 0x2, 0x4, 0x5, 0x7, 0x8, 0xA, 0xD] →
      (v.toNat % 256 = 0 → ∃ i, decode v = .legal i ∧ i.fields.op.toNat = v.toNat / 256) ∧
        (v.toNat % 256 ≠ 0 → ∃ w, decode v = .illegal w)) ∧
    (∃ l : List Word, l.Nodup ∧ l.length = 1289 ∧ ∀ v, (∃ i, decode v = .legal i) ↔ v ∈ l)

/-- R93, R97 and vector V55: a few words written out bit by bit. -/
def Obligations.SampleWordsDecode : Prop :=
  decode 0b00000000000000000000000000000000#32 = .legal .nop ∧
    decode 0b00000000000000000000000100000000#32 = .legal .rst ∧
    decode 0b00000000000000000000001101001101#32 = .legal (.b64ePut 0x4D#8) ∧
    decode 0b00000000000000000000011101001101#32 = .illegal .operandNotZero ∧
    decode 0b00000000000000000000100101000001#32 = .legal (.keyPut 0x41#8) ∧
    decode 0b00000000000000000000110100000000#32 = .legal .brdOfs ∧
    decode 0b00000000000000000000111000000000#32 = .illegal .reservedOpcode ∧
    decode 0b10000000000000000000001100000000#32 = .illegal .reservedBits

/-- R97: a command written as text in any of the three operand forms reads back as that command. The text's form beyond R97's
words is the model's choice (log entry 9). -/
def Obligations.CommandTextReadsBack : Prop :=
  (∀ i : Instr, takesOperand i.fields.op = false → parseCommand i.row.name = some i) ∧
    (∀ (i : Instr) (h l : Char) (a b : Nat), takesOperand i.fields.op = true → hexDigit h = some a → hexDigit l = some b →
      parseCommand (i.row.name ++ [' ', '0', 'x', h, l]) = some (withOperand i (BitVec.ofNat 8 (16 * a + b)))) ∧
    (∀ (i : Instr) (c : Char), takesOperand i.fields.op = true → 32 ≤ c.toNat → c.toNat ≤ 126 →
      parseCommand (i.row.name ++ [' ', Char.ofNat 39, c, Char.ofNat 39]) = some (withOperand i (BitVec.ofNat 8 c.toNat))) ∧
    (∀ (i : Instr) (n : Nat), takesOperand i.fields.op = true → n ≤ 255 →
      parseCommand (i.row.name ++ [' '] ++ Nat.toDigits 10 n) = some (withOperand i (BitVec.ofNat 8 n)))

/-! ### Steps: the host's accesses -/

/-- R41, R200: the step that performs a write of a legal word to CMD is the execution of the decoded command in the state with
that access taken off the pending ones. -/
def Obligations.StepRunsTheWrittenCommand : Prop :=
  ∀ (s : State) (v : Word) (i : Instr) (rest : List HostAccess),
    s.pending = .write 0 v :: rest → decode v = .legal i → step s = exec i { s with pending := rest }

/-- R95, R201: an illegal word raises ILLEGAL while ERR = 0 and is ignored while ERR = 1. -/
def Obligations.IllegalWordRaisesIllegal : Prop :=
  ∀ (s : State) (v : Word) (rest : List HostAccess),
    s.pending = .write 0 v :: rest →
    (v.toNat / 4096 ≠ 0 ∨ (v.toNat / 256) % 16 = 0xE ∨ (v.toNat / 256) % 16 = 0xF ∨
      ((v.toNat / 256) % 16 ∈ [0x0, 0x1, 0x2, 0x4, 0x5, 0x7, 0x8, 0xA, 0xD] ∧ v.toNat % 256 ≠ 0)) →
    (s.err = false → step s = .next { s with pending := rest, err := true, errcode := .illegal }) ∧
      (s.err = true → step s = .next { s with pending := rest })

/-- R206: while ERR = 1 every word but the `RST` word is ignored, the `RST` word resets, and no read clears the fault. -/
def Obligations.FaultedUnitIgnoresAllButRst : Prop :=
  ∀ (s : State) (rest : List HostAccess), s.err = true →
    (∀ v : Word, s.pending = .write 0 v :: rest → v ≠ 0x00000100#32 → step s = .next { s with pending := rest }) ∧
      (s.pending = .write 0 0x00000100#32 :: rest → ∃ t, step s = .next t ∧ t.err = false ∧ t.errcode = .none) ∧
      (∀ r : Nat, r ≤ 7 → s.pending = .read r :: rest →
        ∃ t, step s = .next t ∧ t.err = true ∧ t.errcode = s.errcode)

/-- R30, R206: ERR is sticky: a step that clears it performs a write of the `RST` word or a hardware reset. -/
def Obligations.OnlyResetsClearTheFault : Prop :=
  ∀ s t : State, s.err = true → step s = .next t → t.err = false →
    s.pending.head? = some (.write 0 0x00000100#32) ∨ s.pending.head? = some .hardwareReset

/-- R41: a write to CMD executes the word; a write to a register 1 to 7 changes nothing and raises no fault. -/
def Obligations.WritesToOtherRegistersAreIgnored : Prop :=
  ∀ (s : State) (r : Nat) (v : Word) (rest : List HostAccess), s.pending = .write r v :: rest →
    (r = 0 → step s = runWord v { s with pending := rest }) ∧
      (1 ≤ r → r ≤ 7 → step s = .next { s with pending := rest })

/-- R51: the model has no transition for a register number above 7; that it stops under this name is the model's choice (log
entry 5). -/
def Obligations.MissingRegisterStopsTheModel : Prop :=
  ∀ (s : State) (r : Nat) (v : Word) (rest : List HostAccess), 7 < r →
    (s.pending = .write r v :: rest → step s = .refused (.noSuchRegister r)) ∧
      (s.pending = .read r :: rest → step s = .refused (.noSuchRegister r))

/-- R43, R46 to R50: the values read from CMD, DCNT, KEYLEN, KIDX, OFS and CAP; such a read changes nothing of the unit. How the
value reaches the host is the model's choice (log entry 4). -/
def Obligations.ReadsReturnTheDataRegisters : Prop :=
  ∀ (s : State) (r : Nat) (rest : List HostAccess), s.Inv → s.pending = .read r :: rest →
    let back (g : HostReg) (v : Word) : State := { s with pending := rest, returned := s.returned ++ [⟨g, v⟩] }
    (r = 0 → step s = .next (back .cmd 0#32)) ∧
      (r = 3 → step s = .next (back .dcnt s.dcnt)) ∧
      (r = 4 → ∃ v : Word, step s = .next (back .keylen v) ∧ v.toNat = s.key.length) ∧
      (r = 5 → ∃ v : Word, step s = .next (back .kidx v) ∧ v.toNat = s.kidx) ∧
      (r = 6 → ∃ v : Word, step s = .next (back .ofs v) ∧ v.toNat = s.ofs.toNat) ∧
      (r = 7 → ∃ v : Word, step s = .next (back .cap v) ∧ v.toNat = s.cfg.keyMax + 65536 * s.cfg.outDepth)

/-- R44: the fields of STATUS, as one number; bits [31:24] are zero because the sum is below 2^24. The record of the returned
value is the model's choice (log entry 4). -/
def Obligations.ReadOfStatusReturnsTheFields : Prop :=
  ∀ (s : State) (rest : List HostAccess), s.cfg.WellFormed → s.QueueBounded → s.pending = .read 1 :: rest →
    ∃ v : Word,
      step s = .next { s with pending := rest, returned := s.returned ++ [⟨.status, v⟩] } ∧
        v.toNat = (if s.err then 1 else 0) + 2 * s.errcode.bits.toNat + 16 * s.encN.val + 64 * s.decN.val +
          256 * s.outq.length ∧
        v.toNat < 2 ^ 24

/-- R45: a read of OUT returns VALID and the oldest byte and removes it; from an empty queue it returns 0 and changes
nothing. The record of the returned value is the model's choice (log entry 4). -/
def Obligations.ReadOfOutPopsTheQueue : Prop :=
  ∀ (s : State) (rest : List HostAccess), s.pending = .read 2 :: rest →
    (s.outq = [] → step s = .next { s with pending := rest, returned := s.returned ++ [⟨.out, 0x00000000#32⟩] }) ∧
      (∀ (b : Byte) (q : List Byte), s.outq = b :: q →
        ∃ v : Word, step s = .next { s with pending := rest, outq := q, returned := s.returned ++ [⟨.out, v⟩] } ∧
          v.toNat = 0x100 + b.toNat)

/-- R98: `DRAIN` performs |OUTQ| + 1 reads of OUT and collects the queue in order; one read a step. -/
def Obligations.DrainCollectsTheWholeQueue : Prop :=
  ∀ (s : State) (rest : List HostAccess), s.pending = .drain :: rest →
    ∃ t, Host.Core.run core (s.outq.length + 1) s = .next t ∧
      t = { s with
              pending := rest
              outq := []
              returned := s.returned ++ (s.outq.map fun b => ⟨.out, 0x100#32 ||| b.setWidth 32⟩) ++ [⟨.out, 0#32⟩] } ∧
      t.delivered = s.delivered

/-- R230, R231: a hardware reset gives the reset state of the unit, and `RST` gives the same state. The accesses pending and the
values returned stay, which is the model's choice (log entries 3 and 4). -/
def Obligations.HardwareResetGivesTheResetState : Prop :=
  ∀ (s : State) (rest : List HostAccess), s.pending = .hardwareReset :: rest →
    ∃ t, step s = .next t ∧
      t = { State.initial s.cfg with pending := rest, returned := s.returned } ∧
      exec .rst { s with pending := rest } = .next t

/-- R231: the reset state of every unit, and what its registers read. -/
def Obligations.ResetStateAndItsRegisters : Prop :=
  ∀ c : Config, c.WellFormed →
    let s := State.initial c
    (s.encN = 0 ∧ s.encB0 = 0 ∧ s.encB1 = 0) ∧
      (s.decN = 0 ∧ s.decS0 = 0 ∧ s.decS1 = 0 ∧ s.decS2 = 0 ∧ s.dcnt = 0) ∧
      (s.keylen = 0 ∧ s.kidx = 0 ∧ s.ofs = 0x00#8) ∧
      (s.outq = [] ∧ s.err = false ∧ s.errcode = .none) ∧
      ([HostReg.cmd, .status, .out, .dcnt, .keylen, .kidx, .ofs].all (fun g => readValue g s = 0#32) = true) ∧
      (readValue .cap s).toNat = c.keyMax + 65536 * c.outDepth

/-- R212, R246: with no access pending the unit is idle and keeps all its state. That the model then steps to the same state is
its choice (log entry 3). -/
def Obligations.IdleUnitKeepsItsState : Prop :=
  ∀ s : State, s.pending = [] → step s = .next s

/-! ### Commands: results and faults -/

/-- R190: `NOP` changes nothing. -/
def Obligations.NopChangesNothing : Prop :=
  encode .nop = 0x00000000#32 ∧ ∀ s : State, exec .nop s = .next s

/-- R191: `RST` gives every element its reset value, in every state, faulted or not; no other word is `RST`. -/
def Obligations.RstResetsEveryElement : Prop :=
  (∀ v : Word, decode v = .legal .rst ↔ v = 0x00000100#32) ∧
    ∀ s : State, exec .rst s =
      .next { s with
                encN := 0, encB0 := 0, encB1 := 0
                decN := 0, decS0 := 0, decS1 := 0, decS2 := 0, dcnt := 0
                key := [], kidx := 0, ofs := 0
                outq := [], err := false, errcode := .none }

/-- R121: `B64E.INIT` empties the group buffer and touches nothing else. -/
def Obligations.EncInitEmptiesTheGroup : Prop :=
  encode .b64eInit = 0x00000200#32 ∧
    ∀ s : State, s.err = false → exec .b64eInit s = .next { s with encN := 0, encB0 := 0, encB1 := 0 }

/-- R122: the three cases of `B64E.PUT d`, with the characters in terms of the bytes, and its one fault. -/
def Obligations.EncPutHoldsOrEmitsAGroup : Prop :=
  ∀ (d : Byte),
    encode (.b64ePut d) = 0x00000300#32 ||| d.setWidth 32 ∧
    ∀ (s : State), s.err = false →
      (s.encN = 0 → exec (.b64ePut d) s = .next { s with encB0 := d, encN := 1 }) ∧
        (s.encN = 1 → exec (.b64ePut d) s = .next { s with encB1 := d, encN := 2 }) ∧
        (s.encN = 2 → 4 ≤ s.cfg.outDepth - s.outq.length →
          exec (.b64ePut d) s =
            .next { s with
                      encN := 0, encB0 := 0, encB1 := 0
                      outq := s.outq ++
                        [enc6 ((s.encB0 >>> 2).setWidth 6),
                          enc6 ((((s.encB0 &&& 0x03#8) <<< 4) ||| (s.encB1 >>> 4)).setWidth 6),
                          enc6 ((((s.encB1 &&& 0x0F#8) <<< 2) ||| (d >>> 6)).setWidth 6),
                          enc6 ((d &&& 0x3F#8).setWidth 6)] }) ∧
        (s.encN = 2 → s.cfg.outDepth - s.outq.length < 4 →
          exec (.b64ePut d) s = .next { s with err := true, errcode := .outOverrun })

/-- R123: the cases of `B64E.END`, with the padding, and its one fault. The unused bytes of the group are zero (R32 (a)). -/
def Obligations.EncEndEmitsThePaddedGroup : Prop :=
  encode .b64eEnd = 0x00000400#32 ∧
    ∀ (s : State), s.err = false → s.EncClean →
      (s.encN = 0 → exec .b64eEnd s = .next s) ∧
        (s.encN = 1 → 4 ≤ s.cfg.outDepth - s.outq.length →
          exec .b64eEnd s =
            .next { s with
                      encN := 0, encB0 := 0, encB1 := 0
                      outq := s.outq ++
                        [enc6 ((s.encB0 >>> 2).setWidth 6), enc6 (((s.encB0 &&& 0x03#8) <<< 4).setWidth 6), 0x3D#8,
                          0x3D#8] }) ∧
        (s.encN = 2 → 4 ≤ s.cfg.outDepth - s.outq.length →
          exec .b64eEnd s =
            .next { s with
                      encN := 0, encB0 := 0, encB1 := 0
                      outq := s.outq ++
                        [enc6 ((s.encB0 >>> 2).setWidth 6),
                          enc6 ((((s.encB0 &&& 0x03#8) <<< 4) ||| (s.encB1 >>> 4)).setWidth 6),
                          enc6 (((s.encB1 &&& 0x0F#8) <<< 2).setWidth 6), 0x3D#8] }) ∧
        ((s.encN = 1 ∨ s.encN = 2) → s.cfg.outDepth - s.outq.length < 4 →
          exec .b64eEnd s = .next { s with err := true, errcode := .outOverrun })

/-- R141: `B64D.INIT` empties the group and clears the count. -/
def Obligations.DecInitEmptiesTheGroupAndTheCount : Prop :=
  encode .b64dInit = 0x00000500#32 ∧
    ∀ s : State, s.err = false →
      exec .b64dInit s = .next { s with decN := 0, decS0 := 0, decS1 := 0, decS2 := 0, dcnt := 0 }

/-- R142: `B64D.PUT c`: skipping, holding, the three bytes of a full group as numbers, and the one fault. -/
def Obligations.DecPutSkipsHoldsOrEmitsAGroup : Prop :=
  ∀ (c : Byte),
    encode (.b64dPut c) = 0x00000600#32 ||| c.setWidth 32 ∧
    ∀ (s : State), s.err = false →
      (dec6 c = none → exec (.b64dPut c) s = .next s) ∧
        (∀ v : Sextet, dec6 c = some v →
          (s.decN = 0 → exec (.b64dPut c) s = .next { s with decS0 := v, decN := 1 }) ∧
            (s.decN = 1 → exec (.b64dPut c) s = .next { s with decS1 := v, decN := 2 }) ∧
            (s.decN = 2 → exec (.b64dPut c) s = .next { s with decS2 := v, decN := 3 }) ∧
            (s.decN = 3 → 3 ≤ s.cfg.outDepth - s.outq.length →
              ∃ b1 b2 b3 : Byte,
                exec (.b64dPut c) s =
                    .next { s with
                              decN := 0, decS0 := 0, decS1 := 0, decS2 := 0
                              dcnt := s.dcnt + 3#32
                              outq := s.outq ++ [b1, b2, b3] } ∧
                  b1.toNat = 4 * s.decS0.toNat + s.decS1.toNat / 16 ∧
                  b2.toNat = (16 * s.decS1.toNat + s.decS2.toNat / 4) % 256 ∧
                  b3.toNat = (64 * s.decS2.toNat + v.toNat) % 256) ∧
            (s.decN = 3 → s.cfg.outDepth - s.outq.length < 3 →
              exec (.b64dPut c) s = .next { s with err := true, errcode := .outOverrun }))

/-- R143: `B64D.END` flushes 0, 1, 1 or 2 bytes and counts them, or faults where they do not fit. The empty slots are zero (R32
(b)). -/
def Obligations.DecEndFlushesThePartialGroup : Prop :=
  encode .b64dEnd = 0x00000700#32 ∧
    ∀ (s : State), s.err = false → s.DecClean →
      (s.decN = 0 → exec .b64dEnd s = .next s) ∧
        ((s.decN = 1 ∨ s.decN = 2) → 1 ≤ s.cfg.outDepth - s.outq.length →
          ∃ b1 : Byte,
            exec .b64dEnd s =
                .next { s with
                          decN := 0, decS0 := 0, decS1 := 0, decS2 := 0
                          dcnt := s.dcnt + 1#32, outq := s.outq ++ [b1] } ∧
              b1.toNat = 4 * s.decS0.toNat + s.decS1.toNat / 16 ∧
              (s.decN = 1 → b1.toNat = 4 * s.decS0.toNat)) ∧
        (s.decN = 3 → 2 ≤ s.cfg.outDepth - s.outq.length →
          ∃ b1 b2 : Byte,
            exec .b64dEnd s =
                .next { s with
                          decN := 0, decS0 := 0, decS1 := 0, decS2 := 0
                          dcnt := s.dcnt + 2#32, outq := s.outq ++ [b1, b2] } ∧
              b1.toNat = 4 * s.decS0.toNat + s.decS1.toNat / 16 ∧
              b2.toNat = (16 * s.decS1.toNat + s.decS2.toNat / 4) % 256) ∧
        (((s.decN = 1 ∨ s.decN = 2) ∧ s.cfg.outDepth - s.outq.length < 1 ∨
            s.decN = 3 ∧ s.cfg.outDepth - s.outq.length < 2) →
          exec .b64dEnd s = .next { s with err := true, errcode := .outOverrun })

/-- R161: `KEY.CLR` empties the key store; OFS and everything else keep their values. -/
def Obligations.KeyClrEmptiesTheKey : Prop :=
  encode .keyClr = 0x00000800#32 ∧
    ∀ s : State, s.err = false → exec .keyClr s = .next { s with key := [], kidx := 0 }

/-- R162, R202: `KEY.PUT k` appends k and restarts the position, or raises KEY_OVERFLOW where the key store is full. -/
def Obligations.KeyPutAppendsOrOverflows : Prop :=
  ∀ (k : Byte),
    encode (.keyPut k) = 0x00000900#32 ||| k.setWidth 32 ∧
    ∀ (s : State), s.err = false →
      (s.key.length ≠ s.cfg.keyMax → exec (.keyPut k) s = .next { s with key := s.key ++ [k], kidx := 0 }) ∧
        (s.key.length = s.cfg.keyMax → exec (.keyPut k) s = .next { s with err := true, errcode := .keyOverflow })

/-- R173: `BRD.INIT` sets the position to 1, with or without a key. -/
def Obligations.BrdInitRestartsThePosition : Prop :=
  encode .brdInit = 0x00000A00#32 ∧ ∀ s : State, s.err = false → exec .brdInit s = .next { s with kidx := 0 }

/-- R174: `BRD.ENC m` emits m plus the offset modulo 256, records the offset and advances; NO_KEY without a key, OUT_OVERRUN
with a full queue. -/
def Obligations.BrdEncAddsTheOffset : Prop :=
  ∀ (m : Byte),
    encode (.brdEnc m) = 0x00000B00#32 ||| m.setWidth 32 ∧
    ∀ (s : State), s.err = false →
      (s.key = [] → exec (.brdEnc m) s = .next { s with err := true, errcode := .noKey }) ∧
        (s.key ≠ [] → s.cfg.outDepth - s.outq.length < 1 →
          exec (.brdEnc m) s = .next { s with err := true, errcode := .outOverrun }) ∧
        (∀ h : s.kidx < s.key.length, 1 ≤ s.cfg.outDepth - s.outq.length →
          let o := offset s.key[s.kidx] s.key.length
          ∃ b : Byte,
            exec (.brdEnc m) s =
                .next { s with
                          ofs := o.sext8
                          kidx := if s.kidx + 1 = s.key.length then 0 else s.kidx + 1
                          outq := s.outq ++ [b] } ∧
              (b.toNat : Int) = ((m.toNat : Int) + o.value) % 256)

/-- R175: `BRD.DEC c` emits c minus the offset modulo 256, records the offset itself and advances; faults as `BRD.ENC`. -/
def Obligations.BrdDecSubtractsTheOffset : Prop :=
  ∀ (c : Byte),
    encode (.brdDec c) = 0x00000C00#32 ||| c.setWidth 32 ∧
    ∀ (s : State), s.err = false →
      (s.key = [] → exec (.brdDec c) s = .next { s with err := true, errcode := .noKey }) ∧
        (s.key ≠ [] → s.cfg.outDepth - s.outq.length < 1 →
          exec (.brdDec c) s = .next { s with err := true, errcode := .outOverrun }) ∧
        (∀ h : s.kidx < s.key.length, 1 ≤ s.cfg.outDepth - s.outq.length →
          let o := offset s.key[s.kidx] s.key.length
          ∃ b : Byte,
            exec (.brdDec c) s =
                .next { s with
                          ofs := o.sext8
                          kidx := if s.kidx + 1 = s.key.length then 0 else s.kidx + 1
                          outq := s.outq ++ [b] } ∧
              (b.toNat : Int) = ((c.toNat : Int) - o.value) % 256)

/-- R176: `BRD.OFS` records the offset of the current position and changes nothing else; NO_KEY without a key. -/
def Obligations.BrdOfsRecordsTheOffset : Prop :=
  encode .brdOfs = 0x00000D00#32 ∧
    ∀ (s : State), s.err = false →
      (s.key = [] → exec .brdOfs s = .next { s with err := true, errcode := .noKey }) ∧
        (∀ h : s.kidx < s.key.length,
          exec .brdOfs s = .next { s with ofs := (offset s.key[s.kidx] s.key.length).sext8 })

/-- The model's choice (log entry 1), for R232: a key byte that does not exist is never a value; the three commands that read
the key stop. No state that satisfies the invariant is such. -/
def Obligations.KeyReadPastTheEndStops : Prop :=
  ∀ (s : State) (d : Byte), s.err = false → s.key ≠ [] → s.key.length ≤ s.kidx →
    exec .brdOfs s = .fault .keyReadPastEnd ∧
      (1 ≤ s.free → exec (.brdEnc d) s = .fault .keyReadPastEnd ∧ exec (.brdDec d) s = .fault .keyReadPastEnd)

/-! ### Faults over all commands -/

/-- R200 steps 4 to 6, R202 to R205, R208: a command faults exactly as the ordered conditions say; then ERR and ERRCODE change
and nothing else; else ERR stays 0. -/
def Obligations.FaultsFollowTheOrderedChecks : Prop :=
  ∀ (i : Instr) (s : State), s.err = false →
    (faultOf i s ≠ .none → exec i s = .next { s with err := true, errcode := faultOf i s }) ∧
      (∀ t, faultOf i s = .none → exec i s = .next t → t.err = false)

/-- R33: a command that does not fault, `RST` apart, appends as many bytes to OUTQ as the table says, and none of those already
there is touched. -/
def Obligations.EmissionCountsAreTheTable : Prop :=
  ∀ (i : Instr) (s t : State), i ≠ .rst → s.err = false → exec i s = .next t → t.err = false →
    ∃ bs : List Byte, t.outq = s.outq ++ bs ∧ bs.length = emissionCount i s ∧ bs.length ≤ 4

/-! ### Frames -/

/-- R120, R205: what the three B64E commands leave unchanged: everything but the group buffer, the tail of OUTQ, and the flags
of an overrun. -/
def Obligations.EncoderCommandsFrame : Prop :=
  ∀ (i : Instr) (s t : State), isEncoderCommand i = true → exec i s = .next t →
    (t.decN = s.decN ∧ t.decS0 = s.decS0 ∧ t.decS1 = s.decS1 ∧ t.decS2 = s.decS2 ∧ t.dcnt = s.dcnt) ∧
      (t.key = s.key ∧ t.kidx = s.kidx ∧ t.ofs = s.ofs) ∧
      (t.cfg = s.cfg ∧ t.pending = s.pending ∧ t.returned = s.returned) ∧
      (t = { s with err := true, errcode := .outOverrun } ∨
        (t.err = s.err ∧ t.errcode = s.errcode ∧
          (t.outq = s.outq ∨ ∃ bs : List Byte, bs.length = emissionCount i s ∧ t.outq = s.outq ++ bs)))

/-- R120, R205: what the three B64D commands leave unchanged. -/
def Obligations.DecoderCommandsFrame : Prop :=
  ∀ (i : Instr) (s t : State), isDecoderCommand i = true → exec i s = .next t →
    (t.encN = s.encN ∧ t.encB0 = s.encB0 ∧ t.encB1 = s.encB1) ∧
      (t.key = s.key ∧ t.kidx = s.kidx ∧ t.ofs = s.ofs) ∧
      (t.cfg = s.cfg ∧ t.pending = s.pending ∧ t.returned = s.returned) ∧
      (t = { s with err := true, errcode := .outOverrun } ∨
        (t.err = s.err ∧ t.errcode = s.errcode ∧
          (t.outq = s.outq ∨ ∃ bs : List Byte, bs.length = emissionCount i s ∧ t.outq = s.outq ++ bs)))

/-- R120, R205: what the KEY and BRD commands leave unchanged; the key changes by KEY.CLR and KEY.PUT alone, the queue by
BRD.ENC and BRD.DEC alone, OFS by BRD.ENC, BRD.DEC and BRD.OFS alone (R26, R28). -/
def Obligations.BraidCommandsFrame : Prop :=
  ∀ (i : Instr) (s t : State), isBraidCommand i = true → exec i s = .next t →
    (t.encN = s.encN ∧ t.encB0 = s.encB0 ∧ t.encB1 = s.encB1) ∧
      (t.decN = s.decN ∧ t.decS0 = s.decS0 ∧ t.decS1 = s.decS1 ∧ t.decS2 = s.decS2 ∧ t.dcnt = s.dcnt) ∧
      (t.cfg = s.cfg ∧ t.pending = s.pending ∧ t.returned = s.returned) ∧
      ((∃ c, t = { s with err := true, errcode := c }) ∨ (t.err = s.err ∧ t.errcode = s.errcode)) ∧
      (i ≠ .keyClr → (∀ k, i ≠ .keyPut k) → t.key = s.key) ∧
      ((∀ m, i ≠ .brdEnc m) → (∀ c, i ≠ .brdDec c) → t.outq = s.outq) ∧
      ((∀ m, i ≠ .brdEnc m) → (∀ c, i ≠ .brdDec c) → i ≠ .brdOfs → t.ofs = s.ofs) ∧
      (t.outq = s.outq ∨ ∃ b : Byte, t.outq = s.outq ++ [b])

/-! ### Whole-machine rules -/

/-- R32 (a) to (g): every step keeps the invariant. -/
def Obligations.InvariantKeptByEveryStep : Prop :=
  ∀ s t : State, s.Inv → step s = .next t → t.Inv

/-- R231, R32: the reset state of every unit satisfies the invariant, and so does the model's reset state. -/
def Obligations.InvariantHoldsAtReset : Prop :=
  (∀ c : Config, c.WellFormed → (State.initial c).Inv) ∧ State.reset.Inv

/-- R241: the unit never stalls: from a state that satisfies the invariant every access to one of the eight registers, every
`DRAIN` and every hardware reset completes as one transition. -/
def Obligations.EveryAccessCompletes : Prop :=
  ∀ s : State, s.Inv →
    (∀ r v, s.pending.head? = some (.write r v) → r ≤ 7) → (∀ r, s.pending.head? = some (.read r) → r ≤ 7) →
    ∃ t, step s = .next t

/-- R31, R50: KEYMAX and OUTDEPTH are constants of the unit: no step changes them. -/
def Obligations.ParametersNeverChange : Prop :=
  ∀ s t : State, step s = .next t → t.cfg = s.cfg

/-- R2, R242: the engines share one output queue and the flags, and nothing else: what a command of one engine does to its own
part, to the queue and to the flags depends on those alone. -/
def Obligations.EnginesShareOnlyTheQueue : Prop :=
  (∀ (i : Instr) (s1 s2 t1 : State), isEncoderCommand i = true → s1.encView = s2.encView → exec i s1 = .next t1 →
      ∃ t2, exec i s2 = .next t2 ∧ t2.encView = t1.encView) ∧
    (∀ (i : Instr) (s1 s2 t1 : State), isDecoderCommand i = true → s1.decView = s2.decView → exec i s1 = .next t1 →
      ∃ t2, exec i s2 = .next t2 ∧ t2.decView = t1.decView) ∧
    (∀ (i : Instr) (s1 s2 t1 : State), isBraidCommand i = true → s1.brdView = s2.brdView → exec i s1 = .next t1 →
      ∃ t2, exec i s2 = .next t2 ∧ t2.brdView = t1.brdView)

/-- R29, R68, R71: what the host has collected, followed by what is still queued, is first in first out: reads and drains leave
that sequence as it is, and a command other than `RST` only appends to it. -/
def Obligations.OutputIsFirstInFirstOut : Prop :=
  (∀ (s t : State) (r : Nat), s.pending.head? = some (.read r) → step s = .next t → t.delivered = s.delivered) ∧
    (∀ s t : State, s.pending.head? = some .drain → step s = .next t → t.delivered = s.delivered) ∧
    (∀ (s t : State) (r : Nat) (v : Word), s.pending.head? = some (.write r v) → v ≠ 0x00000100#32 → step s = .next t →
      ∃ bs : List Byte, t.delivered = s.delivered ++ bs ∧ bs.length ≤ 4)

/-! ### The alphabet, the table, the adder -/

/-- R65: the table of `dec6`; it inverts `enc6` both ways, and 64 of the 256 values are valid. -/
def Obligations.AlphabetMapsAreInverse : Prop :=
  (∀ c : Byte,
      (0x41 ≤ c.toNat → c.toNat ≤ 0x5A → ∃ v : Sextet, dec6 c = some v ∧ v.toNat = c.toNat - 0x41) ∧
        (0x61 ≤ c.toNat → c.toNat ≤ 0x7A → ∃ v : Sextet, dec6 c = some v ∧ v.toNat = c.toNat - 0x61 + 26) ∧
        (0x30 ≤ c.toNat → c.toNat ≤ 0x39 → ∃ v : Sextet, dec6 c = some v ∧ v.toNat = c.toNat - 0x30 + 52) ∧
        (c = 0x2B#8 → dec6 c = some 62#6) ∧ (c = 0x2F#8 → dec6 c = some 63#6) ∧
        (c.toNat < 0x2B ∨ c.toNat ∈ [0x2C, 0x2D, 0x2E] ∨ 0x39 < c.toNat ∧ c.toNat < 0x41 ∨ 0x5A < c.toNat ∧ c.toNat < 0x61 ∨
          0x7A < c.toNat → dec6 c = none)) ∧
  (∀ v : Sextet, dec6 (enc6 v) = some v) ∧ (∀ (c : Byte) (v : Sextet), dec6 c = some v → enc6 v = c) ∧
    ((List.range 256).filter fun n => (dec6 (BitVec.ofNat 8 n)).isSome).length = 64

/-- R171, R172: the decision table over the remainder, the remainder given by its defining equation. -/
def Obligations.DecisionTableOverTheRemainder : Prop :=
  ∀ (code : Byte) (l q m : Nat), m < l → code.toNat = q * l + m →
    (m = 0 → (offset code l).value = 3) ∧
      (m = 1 → (offset code l).value = -2) ∧
      (2 ≤ m → m % 2 = 0 → (offset code l).value = -1) ∧
      (2 ≤ m → m % 2 = 1 → (offset code l).value = 2)

/-- R177: the adder as 8-bit additions, for every byte and every offset. -/
def Obligations.AdderWrapsModulo256 : Prop :=
  (∀ (m : Byte) (o : Offset), addOffset m o = m + o.sext8 ∧ ((addOffset m o).toNat : Int) = ((m.toNat : Int) + o.value) % 256) ∧
    (∀ (c : Byte) (o : Offset),
      subOffset c o = c + BitVec.ofNat 8 (256 - o.sext8.toNat) ∧
        ((subOffset c o).toNat : Int) = ((c.toNat : Int) - o.value) % 256) ∧
    (∀ c : Byte, subOffset c .plus3 = c + 0xFD#8 ∧ subOffset c .minus2 = c + 0x02#8 ∧ subOffset c .minus1 = c + 0x01#8 ∧
      subOffset c .plus2 = c + 0xFE#8)

/-- R181: which offsets a key length can give, and the period of the offset sequence. -/
def Obligations.OffsetsOfAKeyLength : Prop :=
  (∀ code : Byte, offset code 1 = .plus3) ∧
    (∀ code : Byte, offset code 2 = .plus3 ∨ offset code 2 = .minus2) ∧
    (∀ code : Byte, offset code 3 ≠ .plus2) ∧
    (∀ l : Nat, 4 ≤ l → ∀ o : Offset, ∃ code : Byte, offset code l = o) ∧
    (∀ l : Nat, 1 ≤ l → offset 0x00#8 l = .plus3) ∧
    (∀ l : Nat, 2 ≤ l → offset 0x01#8 l = .minus2) ∧
    (∀ (k : List Byte) (hk : k ≠ []) (p : Nat), 1 ≤ p → braidOffset k hk (p + k.length) = braidOffset k hk p)

/-! ### Laws of whole streams -/

/-- R146: decoding an encoding gives the bytes back, for every byte sequence, length 0 included. -/
def Obligations.DecodeOfEncodeIsTheInput : Prop :=
  ∀ x : List Byte, decText (encText x) = x

/-- R180: the cipher's round trips and lengths, for every key and every byte sequence. -/
def Obligations.BraidRoundTrip : Prop :=
  ∀ (k : List Byte) (hk : k ≠ []) (x : List Byte),
    decryptText k hk (encryptText k hk x) = x ∧ encryptText k hk (decryptText k hk x) = x ∧
      (encryptText k hk x).length = x.length ∧ (decryptText k hk x).length = x.length

/-- R125: the length and the padding of an encoding; every other character is of the alphabet. -/
def Obligations.EncodedLengthAndPadding : Prop :=
  ∀ x : List Byte,
    (encText x).length = 4 * ((x.length + 2) / 3) ∧
      ∃ body : List Byte,
        encText x = body ++ List.replicate ((3 - x.length % 3) % 3) 0x3D#8 ∧
          ∀ c ∈ body, c ≠ 0x3D#8 ∧ ∃ v : Sextet, c = enc6 v

/-- R145, R144: the number of decoded bytes, from the number of valid characters. -/
def Obligations.DecodedByteCount : Prop :=
  ∀ t : List Byte,
    let m := (t.filter fun c => (dec6 c).isSome).length
    (decText t).length = 3 * (m / 4) + (if m % 4 = 0 then 0 else if m % 4 = 1 then 1 else if m % 4 = 2 then 1 else 2)

/-- R147: invalid characters, anywhere and in any number, change neither the decoded bytes nor the unit's state and output. -/
def Obligations.InvalidCharactersAreTransparent : Prop :=
  ∀ t t' : List Byte, (t'.filter fun c => (dec6 c).isSome) = (t.filter fun c => (dec6 c).isSome) →
    decText t' = decText t ∧
      ∀ s : State, execAll (Pseudo.b64dStr t').expand s = execAll (Pseudo.b64dStr t).expand s

/-- R126: after the first 3k bytes of a stream exactly the first 4k characters of the whole encoding have been appended. -/
def Obligations.StreamingEncodeEqualsBatch : Prop :=
  ∀ (s t : State) (x y : List Byte), s.err = false → s.encN = 0 → x.length % 3 = 0 →
    execAll (Pseudo.b64eStr x).expand s = .next t → t.err = false →
    ∃ bs : List Byte, t.outq = s.outq ++ bs ∧ bs = (encText (x ++ y)).take (4 * (x.length / 3)) ∧
      bs.length = 4 * (x.length / 3) ∧ t.encN = 0

/-- R124, R11: a run that writes the commands of ENCODE x, with reads anywhere between them, and meets no fault, delivers exactly
Enc(x), leaves the group empty, and changes no element of the other engines. -/
def Obligations.EncodeRunDeliversEnc : Prop :=
  ∀ (s t : State) (l : List HostAccess) (x : List Byte),
    s.err = false → s.pending = l → Carries l (Pseudo.encode x).expand →
    Host.Core.run core l.length s = .next t → t.err = false →
    t.delivered = s.delivered ++ encText x ∧
      (t.encN = 0 ∧ t.encB0 = 0 ∧ t.encB1 = 0) ∧
      (t.decN = s.decN ∧ t.decS0 = s.decS0 ∧ t.decS1 = s.decS1 ∧ t.decS2 = s.decS2 ∧ t.dcnt = s.dcnt) ∧
      (t.key = s.key ∧ t.kidx = s.kidx ∧ t.ofs = s.ofs) ∧ t.cfg = s.cfg ∧ t.pending = []

/-- R144, R12: a run that writes the commands of DECODE x, with reads anywhere between them, and meets no fault, delivers exactly
Dec(x) and counts it in DCNT, leaves the group empty, and changes no element of the other engines. -/
def Obligations.DecodeRunDeliversDec : Prop :=
  ∀ (s t : State) (l : List HostAccess) (x : List Byte),
    s.err = false → s.pending = l → Carries l (Pseudo.decode x).expand →
    Host.Core.run core l.length s = .next t → t.err = false →
    t.delivered = s.delivered ++ decText x ∧
      t.dcnt = BitVec.ofNat 32 (decText x).length ∧
      (t.decN = 0 ∧ t.decS0 = 0 ∧ t.decS1 = 0 ∧ t.decS2 = 0) ∧
      (t.encN = s.encN ∧ t.encB0 = s.encB0 ∧ t.encB1 = s.encB1) ∧
      (t.key = s.key ∧ t.kidx = s.kidx ∧ t.ofs = s.ofs) ∧ t.cfg = s.cfg ∧ t.pending = []

/-- R179, R27: from a loaded key at position 1, a run of BRD.ENC (or of BRD.DEC) commands with reads anywhere between them
delivers BrE (or BrD) and leaves KIDX = n mod L. -/
def Obligations.BraidRunDeliversTheCipher : Prop :=
  ∀ (s t : State) (l : List HostAccess) (x : List Byte) (hk : s.key ≠ []),
    s.err = false → s.kidx = 0 → s.pending = l → Host.Core.run core l.length s = .next t → t.err = false →
    (Carries l (Pseudo.brdEncs x).expand →
        t.delivered = s.delivered ++ encryptText s.key hk x ∧ t.kidx = x.length % s.key.length ∧ t.key = s.key) ∧
      (Carries l (Pseudo.brdDecs x).expand →
        t.delivered = s.delivered ++ decryptText s.key hk x ∧ t.kidx = x.length % s.key.length ∧ t.key = s.key)

/-- R14: the runs of ENCRYPT and DECRYPT under a supplied non-empty key deliver the source's `Encrypt` and `Decrypt`. -/
def Obligations.EncryptAndDecryptRuns : Prop :=
  ∀ (s t : State) (l : List HostAccess) (x k : List Byte) (hk : k ≠ []),
    s.err = false → s.pending = l → Host.Core.run core l.length s = .next t → t.err = false →
    (Carries l (Pseudo.encrypt x k).expand → t.delivered = s.delivered ++ encryptText k hk x ∧ t.key = k) ∧
      (Carries l (Pseudo.decrypt x k).expand → t.delivered = s.delivered ++ decryptText k hk x ∧ t.key = k)

/-- R13: the offset of position p, as `BRD.OFS` leaves it after loading the key and p - 1 commands `BRD.ENC 0x00`. -/
def Obligations.OffsetOfAPositionIsLeftInOfs : Prop :=
  ∀ (s t : State) (l : List HostAccess) (k : List Byte) (hk : k ≠ []) (p : Nat), 1 ≤ p →
    s.err = false → s.pending = l →
    Carries l ((Pseudo.keyLoad k).expand ++ List.replicate (p - 1) (.brdEnc 0x00#8) ++ [.brdOfs]) →
    Host.Core.run core l.length s = .next t → t.err = false →
    t.ofs = (braidOffset k hk p).sext8 ∧
      t.ofs = (offset (k[(p - 1) % k.length]'(Nat.mod_lt _ (List.length_pos_of_ne_nil hk))) k.length).sext8

/-- R240, R124, R144, R179: with room for the whole result the sequences complete without a fault and append it. -/
def Obligations.SequencesCompleteWithRoom : Prop :=
  ∀ (s : State) (x : List Byte), s.err = false →
    ((encText x).length ≤ s.free →
        ∃ t, execAll (Pseudo.encode x).expand s = .next t ∧ t.err = false ∧ t.outq = s.outq ++ encText x) ∧
      ((decText x).length ≤ s.free →
        ∃ t, execAll (Pseudo.decode x).expand s = .next t ∧ t.err = false ∧ t.outq = s.outq ++ decText x) ∧
      (∀ (k : List Byte) (hk : k ≠ []), k.length ≤ s.cfg.keyMax → x.length ≤ s.free →
        ∃ t, execAll (Pseudo.encrypt x k).expand s = .next t ∧ t.err = false ∧ t.outq = s.outq ++ encryptText k hk x)
end

