-- ==== Sys2Proof/Laws/State.lean ====
section
/-! SUPPORT. One lemma per field and named update of State: what the update leaves in that field. -/

namespace Sys2Proof.Machine

open Sys2Proof

variable (s : State)

/-! `emit` (R10) writes OUTQ only. -/

@[simp] theorem State.emit_cfg (bs : List Byte) : (s.emit bs).cfg = s.cfg := rfl
@[simp] theorem State.emit_encN (bs : List Byte) : (s.emit bs).encN = s.encN := rfl
@[simp] theorem State.emit_encB0 (bs : List Byte) : (s.emit bs).encB0 = s.encB0 := rfl
@[simp] theorem State.emit_encB1 (bs : List Byte) : (s.emit bs).encB1 = s.encB1 := rfl
@[simp] theorem State.emit_decN (bs : List Byte) : (s.emit bs).decN = s.decN := rfl
@[simp] theorem State.emit_decS0 (bs : List Byte) : (s.emit bs).decS0 = s.decS0 := rfl
@[simp] theorem State.emit_decS1 (bs : List Byte) : (s.emit bs).decS1 = s.decS1 := rfl
@[simp] theorem State.emit_decS2 (bs : List Byte) : (s.emit bs).decS2 = s.decS2 := rfl
@[simp] theorem State.emit_dcnt (bs : List Byte) : (s.emit bs).dcnt = s.dcnt := rfl
@[simp] theorem State.emit_key (bs : List Byte) : (s.emit bs).key = s.key := rfl
@[simp] theorem State.emit_kidx (bs : List Byte) : (s.emit bs).kidx = s.kidx := rfl
@[simp] theorem State.emit_ofs (bs : List Byte) : (s.emit bs).ofs = s.ofs := rfl
@[simp] theorem State.emit_outq (bs : List Byte) : (s.emit bs).outq = s.outq ++ bs := rfl
@[simp] theorem State.emit_err (bs : List Byte) : (s.emit bs).err = s.err := rfl
@[simp] theorem State.emit_errcode (bs : List Byte) : (s.emit bs).errcode = s.errcode := rfl
@[simp] theorem State.emit_pending (bs : List Byte) : (s.emit bs).pending = s.pending := rfl
@[simp] theorem State.emit_returned (bs : List Byte) : (s.emit bs).returned = s.returned := rfl

/-! The key append (R162) writes the key only. -/

@[simp] theorem State.appendKey_cfg (k : Byte) : (s.appendKey k).cfg = s.cfg := rfl
@[simp] theorem State.appendKey_encN (k : Byte) : (s.appendKey k).encN = s.encN := rfl
@[simp] theorem State.appendKey_encB0 (k : Byte) : (s.appendKey k).encB0 = s.encB0 := rfl
@[simp] theorem State.appendKey_encB1 (k : Byte) : (s.appendKey k).encB1 = s.encB1 := rfl
@[simp] theorem State.appendKey_decN (k : Byte) : (s.appendKey k).decN = s.decN := rfl
@[simp] theorem State.appendKey_decS0 (k : Byte) : (s.appendKey k).decS0 = s.decS0 := rfl
@[simp] theorem State.appendKey_decS1 (k : Byte) : (s.appendKey k).decS1 = s.decS1 := rfl
@[simp] theorem State.appendKey_decS2 (k : Byte) : (s.appendKey k).decS2 = s.decS2 := rfl
@[simp] theorem State.appendKey_dcnt (k : Byte) : (s.appendKey k).dcnt = s.dcnt := rfl
@[simp] theorem State.appendKey_key (k : Byte) : (s.appendKey k).key = s.key ++ [k] := rfl
@[simp] theorem State.appendKey_kidx (k : Byte) : (s.appendKey k).kidx = s.kidx := rfl
@[simp] theorem State.appendKey_ofs (k : Byte) : (s.appendKey k).ofs = s.ofs := rfl
@[simp] theorem State.appendKey_outq (k : Byte) : (s.appendKey k).outq = s.outq := rfl
@[simp] theorem State.appendKey_err (k : Byte) : (s.appendKey k).err = s.err := rfl
@[simp] theorem State.appendKey_errcode (k : Byte) : (s.appendKey k).errcode = s.errcode := rfl
@[simp] theorem State.appendKey_pending (k : Byte) : (s.appendKey k).pending = s.pending := rfl
@[simp] theorem State.appendKey_returned (k : Byte) : (s.appendKey k).returned = s.returned := rfl

/-! Emptying the key store (R161) writes the key only. -/

@[simp] theorem State.clearKey_cfg : s.clearKey.cfg = s.cfg := rfl
@[simp] theorem State.clearKey_encN : s.clearKey.encN = s.encN := rfl
@[simp] theorem State.clearKey_encB0 : s.clearKey.encB0 = s.encB0 := rfl
@[simp] theorem State.clearKey_encB1 : s.clearKey.encB1 = s.encB1 := rfl
@[simp] theorem State.clearKey_decN : s.clearKey.decN = s.decN := rfl
@[simp] theorem State.clearKey_decS0 : s.clearKey.decS0 = s.decS0 := rfl
@[simp] theorem State.clearKey_decS1 : s.clearKey.decS1 = s.decS1 := rfl
@[simp] theorem State.clearKey_decS2 : s.clearKey.decS2 = s.decS2 := rfl
@[simp] theorem State.clearKey_dcnt : s.clearKey.dcnt = s.dcnt := rfl
@[simp] theorem State.clearKey_key : s.clearKey.key = [] := rfl
@[simp] theorem State.clearKey_kidx : s.clearKey.kidx = s.kidx := rfl
@[simp] theorem State.clearKey_ofs : s.clearKey.ofs = s.ofs := rfl
@[simp] theorem State.clearKey_outq : s.clearKey.outq = s.outq := rfl
@[simp] theorem State.clearKey_err : s.clearKey.err = s.err := rfl
@[simp] theorem State.clearKey_errcode : s.clearKey.errcode = s.errcode := rfl
@[simp] theorem State.clearKey_pending : s.clearKey.pending = s.pending := rfl
@[simp] theorem State.clearKey_returned : s.clearKey.returned = s.returned := rfl

/-! Fault entry writes ERR and ERRCODE only (R205). -/

@[simp] theorem State.raiseFault_cfg (c : ErrCode) : (s.raiseFault c).cfg = s.cfg := rfl
@[simp] theorem State.raiseFault_encN (c : ErrCode) : (s.raiseFault c).encN = s.encN := rfl
@[simp] theorem State.raiseFault_encB0 (c : ErrCode) : (s.raiseFault c).encB0 = s.encB0 := rfl
@[simp] theorem State.raiseFault_encB1 (c : ErrCode) : (s.raiseFault c).encB1 = s.encB1 := rfl
@[simp] theorem State.raiseFault_decN (c : ErrCode) : (s.raiseFault c).decN = s.decN := rfl
@[simp] theorem State.raiseFault_decS0 (c : ErrCode) : (s.raiseFault c).decS0 = s.decS0 := rfl
@[simp] theorem State.raiseFault_decS1 (c : ErrCode) : (s.raiseFault c).decS1 = s.decS1 := rfl
@[simp] theorem State.raiseFault_decS2 (c : ErrCode) : (s.raiseFault c).decS2 = s.decS2 := rfl
@[simp] theorem State.raiseFault_dcnt (c : ErrCode) : (s.raiseFault c).dcnt = s.dcnt := rfl
@[simp] theorem State.raiseFault_key (c : ErrCode) : (s.raiseFault c).key = s.key := rfl
@[simp] theorem State.raiseFault_kidx (c : ErrCode) : (s.raiseFault c).kidx = s.kidx := rfl
@[simp] theorem State.raiseFault_ofs (c : ErrCode) : (s.raiseFault c).ofs = s.ofs := rfl
@[simp] theorem State.raiseFault_outq (c : ErrCode) : (s.raiseFault c).outq = s.outq := rfl
@[simp] theorem State.raiseFault_err (c : ErrCode) : (s.raiseFault c).err = true := rfl
@[simp] theorem State.raiseFault_errcode (c : ErrCode) : (s.raiseFault c).errcode = c := rfl
@[simp] theorem State.raiseFault_pending (c : ErrCode) : (s.raiseFault c).pending = s.pending := rfl
@[simp] theorem State.raiseFault_returned (c : ErrCode) : (s.raiseFault c).returned = s.returned := rfl

/-! `RST` (R191). -/

@[simp] theorem State.softReset_cfg : s.softReset.cfg = s.cfg := rfl
@[simp] theorem State.softReset_encN : s.softReset.encN = 0 := rfl
@[simp] theorem State.softReset_encB0 : s.softReset.encB0 = 0 := rfl
@[simp] theorem State.softReset_encB1 : s.softReset.encB1 = 0 := rfl
@[simp] theorem State.softReset_decN : s.softReset.decN = 0 := rfl
@[simp] theorem State.softReset_decS0 : s.softReset.decS0 = 0 := rfl
@[simp] theorem State.softReset_decS1 : s.softReset.decS1 = 0 := rfl
@[simp] theorem State.softReset_decS2 : s.softReset.decS2 = 0 := rfl
@[simp] theorem State.softReset_dcnt : s.softReset.dcnt = 0 := rfl
@[simp] theorem State.softReset_key : s.softReset.key = [] := rfl
@[simp] theorem State.softReset_kidx : s.softReset.kidx = 0 := rfl
@[simp] theorem State.softReset_ofs : s.softReset.ofs = 0 := rfl
@[simp] theorem State.softReset_outq : s.softReset.outq = [] := rfl
@[simp] theorem State.softReset_err : s.softReset.err = false := rfl
@[simp] theorem State.softReset_errcode : s.softReset.errcode = .none := rfl
@[simp] theorem State.softReset_pending : s.softReset.pending = s.pending := rfl
@[simp] theorem State.softReset_returned : s.softReset.returned = s.returned := rfl

/-! Hardware reset (R231). -/

@[simp] theorem State.hardwareReset_cfg : s.hardwareReset.cfg = s.cfg := rfl
@[simp] theorem State.hardwareReset_encN : s.hardwareReset.encN = 0 := rfl
@[simp] theorem State.hardwareReset_encB0 : s.hardwareReset.encB0 = 0 := rfl
@[simp] theorem State.hardwareReset_encB1 : s.hardwareReset.encB1 = 0 := rfl
@[simp] theorem State.hardwareReset_decN : s.hardwareReset.decN = 0 := rfl
@[simp] theorem State.hardwareReset_decS0 : s.hardwareReset.decS0 = 0 := rfl
@[simp] theorem State.hardwareReset_decS1 : s.hardwareReset.decS1 = 0 := rfl
@[simp] theorem State.hardwareReset_decS2 : s.hardwareReset.decS2 = 0 := rfl
@[simp] theorem State.hardwareReset_dcnt : s.hardwareReset.dcnt = 0 := rfl
@[simp] theorem State.hardwareReset_key : s.hardwareReset.key = [] := rfl
@[simp] theorem State.hardwareReset_kidx : s.hardwareReset.kidx = 0 := rfl
@[simp] theorem State.hardwareReset_ofs : s.hardwareReset.ofs = 0 := rfl
@[simp] theorem State.hardwareReset_outq : s.hardwareReset.outq = [] := rfl
@[simp] theorem State.hardwareReset_err : s.hardwareReset.err = false := rfl
@[simp] theorem State.hardwareReset_errcode : s.hardwareReset.errcode = .none := rfl
@[simp] theorem State.hardwareReset_pending : s.hardwareReset.pending = s.pending := rfl
@[simp] theorem State.hardwareReset_returned : s.hardwareReset.returned = s.returned := rfl

/-! Emptying the encoder group (R121). -/

@[simp] theorem State.clearEnc_cfg : s.clearEnc.cfg = s.cfg := rfl
@[simp] theorem State.clearEnc_encN : s.clearEnc.encN = 0 := rfl
@[simp] theorem State.clearEnc_encB0 : s.clearEnc.encB0 = 0 := rfl
@[simp] theorem State.clearEnc_encB1 : s.clearEnc.encB1 = 0 := rfl
@[simp] theorem State.clearEnc_decN : s.clearEnc.decN = s.decN := rfl
@[simp] theorem State.clearEnc_decS0 : s.clearEnc.decS0 = s.decS0 := rfl
@[simp] theorem State.clearEnc_decS1 : s.clearEnc.decS1 = s.decS1 := rfl
@[simp] theorem State.clearEnc_decS2 : s.clearEnc.decS2 = s.decS2 := rfl
@[simp] theorem State.clearEnc_dcnt : s.clearEnc.dcnt = s.dcnt := rfl
@[simp] theorem State.clearEnc_key : s.clearEnc.key = s.key := rfl
@[simp] theorem State.clearEnc_kidx : s.clearEnc.kidx = s.kidx := rfl
@[simp] theorem State.clearEnc_ofs : s.clearEnc.ofs = s.ofs := rfl
@[simp] theorem State.clearEnc_outq : s.clearEnc.outq = s.outq := rfl
@[simp] theorem State.clearEnc_err : s.clearEnc.err = s.err := rfl
@[simp] theorem State.clearEnc_errcode : s.clearEnc.errcode = s.errcode := rfl
@[simp] theorem State.clearEnc_pending : s.clearEnc.pending = s.pending := rfl
@[simp] theorem State.clearEnc_returned : s.clearEnc.returned = s.returned := rfl

/-! Emptying the decoder group (R141). -/

@[simp] theorem State.clearDec_cfg : s.clearDec.cfg = s.cfg := rfl
@[simp] theorem State.clearDec_encN : s.clearDec.encN = s.encN := rfl
@[simp] theorem State.clearDec_encB0 : s.clearDec.encB0 = s.encB0 := rfl
@[simp] theorem State.clearDec_encB1 : s.clearDec.encB1 = s.encB1 := rfl
@[simp] theorem State.clearDec_decN : s.clearDec.decN = 0 := rfl
@[simp] theorem State.clearDec_decS0 : s.clearDec.decS0 = 0 := rfl
@[simp] theorem State.clearDec_decS1 : s.clearDec.decS1 = 0 := rfl
@[simp] theorem State.clearDec_decS2 : s.clearDec.decS2 = 0 := rfl
@[simp] theorem State.clearDec_dcnt : s.clearDec.dcnt = s.dcnt := rfl
@[simp] theorem State.clearDec_key : s.clearDec.key = s.key := rfl
@[simp] theorem State.clearDec_kidx : s.clearDec.kidx = s.kidx := rfl
@[simp] theorem State.clearDec_ofs : s.clearDec.ofs = s.ofs := rfl
@[simp] theorem State.clearDec_outq : s.clearDec.outq = s.outq := rfl
@[simp] theorem State.clearDec_err : s.clearDec.err = s.err := rfl
@[simp] theorem State.clearDec_errcode : s.clearDec.errcode = s.errcode := rfl
@[simp] theorem State.clearDec_pending : s.clearDec.pending = s.pending := rfl
@[simp] theorem State.clearDec_returned : s.clearDec.returned = s.returned := rfl

/-! Counting decoded bytes (R23). -/

@[simp] theorem State.count_cfg (k : Nat) : (s.count k).cfg = s.cfg := rfl
@[simp] theorem State.count_encN (k : Nat) : (s.count k).encN = s.encN := rfl
@[simp] theorem State.count_encB0 (k : Nat) : (s.count k).encB0 = s.encB0 := rfl
@[simp] theorem State.count_encB1 (k : Nat) : (s.count k).encB1 = s.encB1 := rfl
@[simp] theorem State.count_decN (k : Nat) : (s.count k).decN = s.decN := rfl
@[simp] theorem State.count_decS0 (k : Nat) : (s.count k).decS0 = s.decS0 := rfl
@[simp] theorem State.count_decS1 (k : Nat) : (s.count k).decS1 = s.decS1 := rfl
@[simp] theorem State.count_decS2 (k : Nat) : (s.count k).decS2 = s.decS2 := rfl
@[simp] theorem State.count_dcnt (k : Nat) : (s.count k).dcnt = s.dcnt + BitVec.ofNat 32 k := rfl
@[simp] theorem State.count_key (k : Nat) : (s.count k).key = s.key := rfl
@[simp] theorem State.count_kidx (k : Nat) : (s.count k).kidx = s.kidx := rfl
@[simp] theorem State.count_ofs (k : Nat) : (s.count k).ofs = s.ofs := rfl
@[simp] theorem State.count_outq (k : Nat) : (s.count k).outq = s.outq := rfl
@[simp] theorem State.count_err (k : Nat) : (s.count k).err = s.err := rfl
@[simp] theorem State.count_errcode (k : Nat) : (s.count k).errcode = s.errcode := rfl
@[simp] theorem State.count_pending (k : Nat) : (s.count k).pending = s.pending := rfl
@[simp] theorem State.count_returned (k : Nat) : (s.count k).returned = s.returned := rfl

/-! Handing a value to the host (R42). -/

@[simp] theorem State.giveBack_cfg (g : HostReg) (v : Word) : (s.giveBack g v).cfg = s.cfg := rfl
@[simp] theorem State.giveBack_encN (g : HostReg) (v : Word) : (s.giveBack g v).encN = s.encN := rfl
@[simp] theorem State.giveBack_encB0 (g : HostReg) (v : Word) : (s.giveBack g v).encB0 = s.encB0 := rfl
@[simp] theorem State.giveBack_encB1 (g : HostReg) (v : Word) : (s.giveBack g v).encB1 = s.encB1 := rfl
@[simp] theorem State.giveBack_decN (g : HostReg) (v : Word) : (s.giveBack g v).decN = s.decN := rfl
@[simp] theorem State.giveBack_decS0 (g : HostReg) (v : Word) : (s.giveBack g v).decS0 = s.decS0 := rfl
@[simp] theorem State.giveBack_decS1 (g : HostReg) (v : Word) : (s.giveBack g v).decS1 = s.decS1 := rfl
@[simp] theorem State.giveBack_decS2 (g : HostReg) (v : Word) : (s.giveBack g v).decS2 = s.decS2 := rfl
@[simp] theorem State.giveBack_dcnt (g : HostReg) (v : Word) : (s.giveBack g v).dcnt = s.dcnt := rfl
@[simp] theorem State.giveBack_key (g : HostReg) (v : Word) : (s.giveBack g v).key = s.key := rfl
@[simp] theorem State.giveBack_kidx (g : HostReg) (v : Word) : (s.giveBack g v).kidx = s.kidx := rfl
@[simp] theorem State.giveBack_ofs (g : HostReg) (v : Word) : (s.giveBack g v).ofs = s.ofs := rfl
@[simp] theorem State.giveBack_outq (g : HostReg) (v : Word) : (s.giveBack g v).outq = s.outq := rfl
@[simp] theorem State.giveBack_err (g : HostReg) (v : Word) : (s.giveBack g v).err = s.err := rfl
@[simp] theorem State.giveBack_errcode (g : HostReg) (v : Word) : (s.giveBack g v).errcode = s.errcode := rfl
@[simp] theorem State.giveBack_pending (g : HostReg) (v : Word) : (s.giveBack g v).pending = s.pending := rfl
@[simp] theorem State.giveBack_returned (g : HostReg) (v : Word) : (s.giveBack g v).returned = s.returned ++ [⟨g, v⟩] := rfl

/-! Taking the first pending access off the list. -/

@[simp] theorem State.takeAccess_cfg : s.takeAccess.cfg = s.cfg := rfl
@[simp] theorem State.takeAccess_encN : s.takeAccess.encN = s.encN := rfl
@[simp] theorem State.takeAccess_encB0 : s.takeAccess.encB0 = s.encB0 := rfl
@[simp] theorem State.takeAccess_encB1 : s.takeAccess.encB1 = s.encB1 := rfl
@[simp] theorem State.takeAccess_decN : s.takeAccess.decN = s.decN := rfl
@[simp] theorem State.takeAccess_decS0 : s.takeAccess.decS0 = s.decS0 := rfl
@[simp] theorem State.takeAccess_decS1 : s.takeAccess.decS1 = s.decS1 := rfl
@[simp] theorem State.takeAccess_decS2 : s.takeAccess.decS2 = s.decS2 := rfl
@[simp] theorem State.takeAccess_dcnt : s.takeAccess.dcnt = s.dcnt := rfl
@[simp] theorem State.takeAccess_key : s.takeAccess.key = s.key := rfl
@[simp] theorem State.takeAccess_kidx : s.takeAccess.kidx = s.kidx := rfl
@[simp] theorem State.takeAccess_ofs : s.takeAccess.ofs = s.ofs := rfl
@[simp] theorem State.takeAccess_outq : s.takeAccess.outq = s.outq := rfl
@[simp] theorem State.takeAccess_err : s.takeAccess.err = s.err := rfl
@[simp] theorem State.takeAccess_errcode : s.takeAccess.errcode = s.errcode := rfl
@[simp] theorem State.takeAccess_pending : s.takeAccess.pending = s.pending.tail := rfl
@[simp] theorem State.takeAccess_returned : s.takeAccess.returned = s.returned := rfl

/-! The effect of a read on the unit (R42, R45): only OUTQ, and only for OUT. -/

@[simp] theorem readEffect_cfg (g : HostReg) : (readEffect g s).cfg = s.cfg := by cases g <;> rfl
@[simp] theorem readEffect_encN (g : HostReg) : (readEffect g s).encN = s.encN := by cases g <;> rfl
@[simp] theorem readEffect_encB0 (g : HostReg) : (readEffect g s).encB0 = s.encB0 := by cases g <;> rfl
@[simp] theorem readEffect_encB1 (g : HostReg) : (readEffect g s).encB1 = s.encB1 := by cases g <;> rfl
@[simp] theorem readEffect_decN (g : HostReg) : (readEffect g s).decN = s.decN := by cases g <;> rfl
@[simp] theorem readEffect_decS0 (g : HostReg) : (readEffect g s).decS0 = s.decS0 := by cases g <;> rfl
@[simp] theorem readEffect_decS1 (g : HostReg) : (readEffect g s).decS1 = s.decS1 := by cases g <;> rfl
@[simp] theorem readEffect_decS2 (g : HostReg) : (readEffect g s).decS2 = s.decS2 := by cases g <;> rfl
@[simp] theorem readEffect_dcnt (g : HostReg) : (readEffect g s).dcnt = s.dcnt := by cases g <;> rfl
@[simp] theorem readEffect_key (g : HostReg) : (readEffect g s).key = s.key := by cases g <;> rfl
@[simp] theorem readEffect_kidx (g : HostReg) : (readEffect g s).kidx = s.kidx := by cases g <;> rfl
@[simp] theorem readEffect_ofs (g : HostReg) : (readEffect g s).ofs = s.ofs := by cases g <;> rfl
@[simp] theorem readEffect_out_outq : (readEffect .out s).outq = s.outq.tail := rfl
@[simp] theorem readEffect_err (g : HostReg) : (readEffect g s).err = s.err := by cases g <;> rfl
@[simp] theorem readEffect_errcode (g : HostReg) : (readEffect g s).errcode = s.errcode := by cases g <;> rfl
@[simp] theorem readEffect_pending (g : HostReg) : (readEffect g s).pending = s.pending := by cases g <;> rfl
@[simp] theorem readEffect_returned (g : HostReg) : (readEffect g s).returned = s.returned := by cases g <;> rfl

end Sys2Proof.Machine
end

