-- ==== Sys2Proof/Laws/Ops.lean ====
section
/-! SUPPORT. For each shared operation, once, everything it can do: the checks of R200, the key read, running an effect, a host
read, an access and a step. -/

namespace Sys2Proof.Machine

open Sys2Proof

variable {s t : State}

/-! ### The checks every command passes (R200) -/

@[simp] theorem attempt_of_faulted {own : Option ErrCode} {e : Nat} {body : Result} (h : s.err = true) :
    attempt own e body s = .next s := by simp [attempt, h]

theorem attempt_of_own {c : ErrCode} {e : Nat} {body : Result} (h : s.err = false) :
    attempt (some c) e body s = .next (s.raiseFault c) := by simp [attempt, h]

theorem attempt_of_overrun {e : Nat} {body : Result} (h : s.err = false) (he : s.free < e) :
    attempt none e body s = .next (s.raiseFault .outOverrun) := by simp [attempt, h, he]

theorem attempt_of_room {e : Nat} {body : Result} (h : s.err = false) (he : e ≤ s.free) :
    attempt none e body s = body := by simp [attempt, h, Nat.not_lt.mpr he]

/-- What a command can do (R200): ignored, its own fault, an overrun, or its body. -/
theorem attempt_next {own : Option ErrCode} {e : Nat} {body : Result} (h : attempt own e body s = .next t) :
    (s.err = true ∧ t = s) ∨
      s.err = false ∧
        ((∃ c, own = some c ∧ t = s.raiseFault c) ∨ own = none ∧ s.free < e ∧ t = s.raiseFault .outOverrun ∨
          own = none ∧ e ≤ s.free ∧ body = .next t) := by
  cases hs : s.err with
  | true => rw [attempt_of_faulted hs] at h; cases h; exact .inl ⟨rfl, rfl⟩
  | false =>
    refine .inr ⟨rfl, ?_⟩
    cases own with
    | some c => rw [attempt_of_own hs] at h; cases h; exact .inl ⟨c, rfl, rfl⟩
    | none =>
      rcases Nat.lt_or_ge s.free e with he | he
      · rw [attempt_of_overrun hs he] at h; cases h; exact .inr (.inl ⟨rfl, he, rfl⟩)
      · rw [attempt_of_room hs he] at h; exact .inr (.inr ⟨rfl, he, h⟩)

/-! ### Running an effect -/

theorem runEffect_of_room {eff : Effect} (h : s.err = false) (he : eff.out.length ≤ s.free) :
    runEffect eff s = .next (eff.after.emit eff.out) := attempt_of_room h he

theorem runEffect_of_overrun {eff : Effect} (h : s.err = false) (he : s.free < eff.out.length) :
    runEffect eff s = .next (s.raiseFault .outOverrun) := attempt_of_overrun h he

theorem runEffect_of_silent {a : State} (h : s.err = false) :
    runEffect { out := [], after := a } s = .next a := by
  rw [runEffect_of_room h (Nat.zero_le _)]; simp [State.emit]

/-- A command without a condition of its own is ignored, overruns, or has its whole effect. -/
theorem runEffect_next {eff : Effect} (h : runEffect eff s = .next t) :
    (s.err = true ∧ t = s) ∨ (s.err = false ∧ s.free < eff.out.length ∧ t = s.raiseFault .outOverrun) ∨
      (s.err = false ∧ eff.out.length ≤ s.free ∧ t = eff.after.emit eff.out) := by
  rcases attempt_next h with h | ⟨hs, ⟨c, hc, _⟩ | ⟨_, he, rfl⟩ | ⟨_, he, hb⟩⟩
  · exact .inl h
  · cases hc
  · exact .inr (.inl ⟨hs, he, rfl⟩)
  · cases hb; exact .inr (.inr ⟨hs, he, rfl⟩)

/-! ### The key byte (R61, R232) -/

theorem withKeyByte_of_lt {k : Byte → Result} (h : s.kidx < s.key.length) : withKeyByte s k = k s.key[s.kidx] := by
  simp [withKeyByte, h]

theorem withKeyByte_of_le {k : Byte → Result} (h : s.key.length ≤ s.kidx) : withKeyByte s k = .fault .keyReadPastEnd := by
  simp [withKeyByte, h]

/-- A key read that lets the command go on has read an entry that exists. -/
theorem withKeyByte_next {k : Byte → Result} (h : withKeyByte s k = .next t) :
    ∃ hk : s.kidx < s.key.length, k s.key[s.kidx] = .next t := by
  rcases Nat.lt_or_ge s.kidx s.key.length with hk | hk
  · exact ⟨hk, by rwa [withKeyByte_of_lt hk] at h⟩
  · rw [withKeyByte_of_le hk] at h; cases h

/-- What a data command of the cipher can do (R174, R175). -/
theorem braidData_next {f : Offset → Byte} (h : braidData f s = .next t) :
    (s.err = true ∧ t = s) ∨
      s.err = false ∧
        ((s.keylen = 0 ∧ t = s.raiseFault .noKey) ∨ (s.keylen ≠ 0 ∧ s.free < 1 ∧ t = s.raiseFault .outOverrun) ∨
          s.keylen ≠ 0 ∧ 1 ≤ s.free ∧ ∃ hk : s.kidx < s.key.length,
            t = { s with ofs := (offset s.key[s.kidx] s.keylen).sext8, kidx := nextKidx s }.emit
                  [f (offset s.key[s.kidx] s.keylen)]) := by
  rcases attempt_next h with h | ⟨hs, ⟨c, hc, rfl⟩ | ⟨ho, he, rfl⟩ | ⟨ho, he, hb⟩⟩
  · exact .inl h
  · by_cases h0 : s.keylen = 0
    · simp only [needsKey, h0, if_true, Option.some.injEq] at hc; subst hc; exact .inr ⟨hs, .inl ⟨h0, rfl⟩⟩
    · simp [needsKey, h0] at hc
  · have h0 : s.keylen ≠ 0 := fun h0 => by simp [needsKey, h0] at ho
    exact .inr ⟨hs, .inr (.inl ⟨h0, he, rfl⟩)⟩
  · have h0 : s.keylen ≠ 0 := fun h0 => by simp [needsKey, h0] at ho
    obtain ⟨hk, hb⟩ := withKeyByte_next hb
    cases hb
    exact .inr ⟨hs, .inr (.inr ⟨h0, he, hk, rfl⟩)⟩

/-! ### Accesses and steps -/

theorem hostRead_of_reg {r : Nat} {g : HostReg} (h : HostReg.ofNumber r = some g) :
    hostRead r s = .next ((readEffect g s).giveBack g (readValue g s)) := by simp [hostRead, h]

/-- A read that completes is a read of one of the eight registers (R42, R51). -/
theorem hostRead_next {r : Nat} (h : hostRead r s = .next t) :
    ∃ g, HostReg.ofNumber r = some g ∧ t = (readEffect g s).giveBack g (readValue g s) := by
  cases hg : HostReg.ofNumber r with
  | none => simp [hostRead, hg] at h
  | some g => rw [hostRead_of_reg hg] at h; cases h; exact ⟨g, rfl, rfl⟩

/-- A write that completes runs a word, or changes nothing (R41). -/
theorem hostWrite_next {r : Nat} {v : Word} (h : hostWrite r v s = .next t) :
    (r = 0 ∧ runWord v s = .next t) ∨ (1 ≤ r ∧ r ≤ 7 ∧ t = s) := by
  match r with
  | 0 => exact .inl ⟨rfl, h⟩
  | 1 | 2 | 3 | 4 | 5 | 6 | 7 => cases h; exact .inr ⟨by omega, by omega, rfl⟩
  | _ + 8 => cases h

/-- A word that is executed is a legal command, or is illegal and raises ILLEGAL unless ERR = 1 (R200, R201). -/
theorem runWord_next {v : Word} (h : runWord v s = .next t) :
    (∃ i, decode v = .legal i ∧ exec i s = .next t) ∨
      ∃ w, decode v = .illegal w ∧ ((s.err = true ∧ t = s) ∨ s.err = false ∧ t = s.raiseFault .illegal) := by
  cases hd : decode v with
  | legal i => simp only [runWord, hd] at h; exact .inl ⟨i, rfl, h⟩
  | illegal w =>
    simp only [runWord, hd] at h
    rcases attempt_next h with h | ⟨hs, ⟨c, hc, rfl⟩ | ⟨ho, _⟩ | ⟨ho, _⟩⟩
    · exact .inr ⟨w, rfl, .inl h⟩
    · cases hc; exact .inr ⟨w, rfl, .inr ⟨hs, rfl⟩⟩
    · cases ho
    · cases ho

theorem step_of_idle (h : s.pending = []) : step s = .next s := by simp [step, performNext, h]

theorem step_of_pending {a : HostAccess} {rest : List HostAccess} (h : s.pending = a :: rest) :
    step s = access a { s with pending := rest } := by simp [step, performNext, h, State.takeAccess]

/-- What a step can do: nothing where no access is pending; else it performs the first one. -/
theorem step_next (h : step s = .next t) :
    (s.pending = [] ∧ t = s) ∨ ∃ a rest, s.pending = a :: rest ∧ access a { s with pending := rest } = .next t := by
  cases hp : s.pending with
  | nil => rw [step_of_idle hp] at h; cases h; exact .inl ⟨rfl, rfl⟩
  | cons a rest => rw [step_of_pending hp] at h; exact .inr ⟨a, rest, rfl, h⟩

/-- A run is its first step and the run from there. -/
theorem run_of_next {k : Nat} (h : step s = .next t) : Host.Core.run core (k + 1) s = Host.Core.run core k t := by
  simp only [Host.Core.run, show core.step s = .next t from h]

/-- A run that ends in a state has a first step. -/
theorem run_next {k : Nat} (h : Host.Core.run core (k + 1) s = .next t) :
    ∃ u, step s = .next u ∧ Host.Core.run core k u = .next t := by
  cases hs : step s with
  | next u => exact ⟨u, rfl, by rwa [run_of_next hs] at h⟩
  | fault r => simp only [Host.Core.run, show core.step s = .fault r from hs] at h; cases h
  | refused r => simp only [Host.Core.run, show core.step s = .refused r from hs] at h; cases h

end Sys2Proof.Machine
end

