-- ==== Sys2Proof/Laws/PerInstr.lean ====
section
/-! SUPPORT. A fact about every command as syntax, one lemma per constructor: its fields pass the checks of format C (R90, R95)
and are the fields of the word it assembles to (R97). -/

open Sys2Proof

/-- Taking the fields of a packed word gives them back (R90). -/
theorem Sys2Proof.fieldsOf_pack (f : Fields) : fieldsOf f.pack = f := by
  obtain ⟨r, o, d⟩ := f
  simp only [fieldsOf, Fields.pack, Fields.mk.injEq]
  refine ⟨?_, ?_, ?_⟩ <;> refine BitVec.eq_of_getLsbD_eq fun i hi => ?_ <;>
    simp only [BitVec.getLsbD_extractLsb', BitVec.getLsbD_append]
  · have h1 : ¬ (12 + i < 8) := by omega
    have h2 : ¬ (12 + i - 8 < 4) := by omega
    have h3 : 12 + i - 8 - 4 = i := by omega
    simp [h1, h2, h3, hi]
  · have h1 : ¬ (8 + i < 8) := by omega
    have h3 : 8 + i - 8 = i := by omega
    simp [h1, h3, hi]
  · simp [hi]

namespace Sys2Proof.Laws

/-- The fields of a command are well formed, and the word it assembles to carries them. -/
def FieldsWellFormed.Statement (i : Instr) : Prop := i.fields.wf = true ∧ fieldsOf (encode i) = i.fields

theorem FieldsWellFormed.nop : FieldsWellFormed.Statement .nop := ⟨rfl, fieldsOf_pack _⟩
theorem FieldsWellFormed.rst : FieldsWellFormed.Statement .rst := ⟨rfl, fieldsOf_pack _⟩
theorem FieldsWellFormed.b64eInit : FieldsWellFormed.Statement .b64eInit := ⟨rfl, fieldsOf_pack _⟩
theorem FieldsWellFormed.b64ePut (d : Byte) : FieldsWellFormed.Statement (.b64ePut d) := ⟨rfl, fieldsOf_pack _⟩
theorem FieldsWellFormed.b64eEnd : FieldsWellFormed.Statement .b64eEnd := ⟨rfl, fieldsOf_pack _⟩
theorem FieldsWellFormed.b64dInit : FieldsWellFormed.Statement .b64dInit := ⟨rfl, fieldsOf_pack _⟩
theorem FieldsWellFormed.b64dPut (c : Byte) : FieldsWellFormed.Statement (.b64dPut c) := ⟨rfl, fieldsOf_pack _⟩
theorem FieldsWellFormed.b64dEnd : FieldsWellFormed.Statement .b64dEnd := ⟨rfl, fieldsOf_pack _⟩
theorem FieldsWellFormed.keyClr : FieldsWellFormed.Statement .keyClr := ⟨rfl, fieldsOf_pack _⟩
theorem FieldsWellFormed.keyPut (k : Byte) : FieldsWellFormed.Statement (.keyPut k) := ⟨rfl, fieldsOf_pack _⟩
theorem FieldsWellFormed.brdInit : FieldsWellFormed.Statement .brdInit := ⟨rfl, fieldsOf_pack _⟩
theorem FieldsWellFormed.brdEnc (m : Byte) : FieldsWellFormed.Statement (.brdEnc m) := ⟨rfl, fieldsOf_pack _⟩
theorem FieldsWellFormed.brdDec (c : Byte) : FieldsWellFormed.Statement (.brdDec c) := ⟨rfl, fieldsOf_pack _⟩
theorem FieldsWellFormed.brdOfs : FieldsWellFormed.Statement .brdOfs := ⟨rfl, fieldsOf_pack _⟩

end Sys2Proof.Laws
end

