-- ==== Sys2Proof/Tests/Slice0.lean ====
section
/-! SUPPORT. Tests of the checks, the decoder, the text form, one step of each command and the streams, with expected results
from 95_test_vectors.md and the rules; and for every statement with premises a witness that meets them. -/

open Sys2Proof Sys2Proof.Machine

namespace Sys2Proof.Tests

/-- The unit of the vectors V59 to V65: KEYMAX = 2 (V58), OUTDEPTH = 4. -/
def small : State := State.initial { keyMax := 2, outDepth := 4 }

/-- `small` with a full queue: `TWFu` (V59). -/
def full : State := { small with outq := [0x54#8, 0x57#8, 0x46#8, 0x75#8] }

/-- `small` with the key `AB` (V32). -/
def keyed : State := { small with key := [0x41#8, 0x42#8] }

/-- `small` after a fault of the given code. -/
def faulted (c : ErrCode) : State := { small with err := true, errcode := c }

/-- A state with the given accesses pending. -/
def waiting (s : State) (l : List HostAccess) : State := { s with pending := l }

/-- One step that writes a word to CMD. -/
def write (v : Word) (s : State) : Result := step (waiting s [.write 0 v])

/-- The outcome is exactly the given next state. -/
def ends (r : Result) (t : State) : Bool :=
  match r with
  | .next u    => u = t
  | .fault _   => false
  | .refused _ => false

/-- The outcome is a next state whose STATUS reads as given. -/
def status (r : Result) (v : Word) : Bool :=
  match r with
  | .next u    => statusWord u = v
  | .fault _   => false
  | .refused _ => false

/-- The queue of a next state. -/
def queue (r : Result) : List Byte :=
  match r with
  | .next u    => u.outq
  | .fault _   => []
  | .refused _ => []

/-! ### Well-formedness: a term that each check refuses -/

theorem test_wf_accepts : (Fields.wf { rsv := 0, op := 0x3#4, data := 0xFF#8 }) = true := by decide
theorem test_wf_reserved_bits : (Fields.reservedZero { rsv := 1, op := 0x3#4, data := 0 }) = false := by decide
theorem test_wf_reserved_opcode :
    (Fields.opcodeAssigned { rsv := 0, op := 0xE#4, data := 0 }, Fields.opcodeAssigned { rsv := 0, op := 0xD#4, data := 0 }) =
      (false, true) := by decide
theorem test_wf_operand : (Fields.operandAllowed { rsv := 0, op := 0x7#4, data := 0x4D#8 }) = false := by decide
theorem test_wf_refuses :
    [({ rsv := 1, op := 0x3#4, data := 0 } : Fields), { rsv := 0, op := 0xF#4, data := 0 },
      { rsv := 0, op := 0x4#4, data := 1 }].all (fun f => f.wf = false) = true := by decide
theorem test_wf_config :
    Config.standard.WellFormed ∧ (¬ Config.WellFormed { keyMax := 0, outDepth := 64 }) ∧
      (¬ Config.WellFormed { keyMax := 65536, outDepth := 64 }) ∧ (¬ Config.WellFormed { keyMax := 1, outDepth := 3 }) ∧
      ¬ Config.WellFormed { keyMax := 1, outDepth := 65536 } := by decide

/-! ### Decoding: a word for every command, written out from the opcode map (R90, R93) -/

theorem test_decode_system :
    decode 0b00000000000000000000000000000000#32 = .legal .nop ∧
      decode 0b00000000000000000000000100000000#32 = .legal .rst := by decide
theorem test_decode_encoder :
    decode 0b00000000000000000000001000000000#32 = .legal .b64eInit ∧
      decode 0b00000000000000000000001101001101#32 = .legal (.b64ePut 0x4D#8) ∧
      decode 0b00000000000000000000010000000000#32 = .legal .b64eEnd := by decide
theorem test_decode_decoder :
    decode 0b00000000000000000000010100000000#32 = .legal .b64dInit ∧
      decode 0b00000000000000000000011011111111#32 = .legal (.b64dPut 0xFF#8) ∧
      decode 0b00000000000000000000011100000000#32 = .legal .b64dEnd := by decide
theorem test_decode_key :
    decode 0b00000000000000000000100000000000#32 = .legal .keyClr ∧
      decode 0b00000000000000000000100101000001#32 = .legal (.keyPut 0x41#8) := by decide
theorem test_decode_braid :
    decode 0b00000000000000000000101000000000#32 = .legal .brdInit ∧
      decode 0b00000000000000000000101101001000#32 = .legal (.brdEnc 0x48#8) ∧
      decode 0b00000000000000000000110001000110#32 = .legal (.brdDec 0x46#8) ∧
      decode 0b00000000000000000000110100000000#32 = .legal .brdOfs := by decide

/-- V56. -/
theorem test_decode_illegal :
    [0x00000E00#32, 0x00000F00#32, 0x00001000#32, 0x00010000#32, 0x80000300#32, 0xFFFFFFFF#32, 0x00000001#32, 0x00000101#32,
        0x000002FF#32, 0x00000401#32, 0x00000D01#32].all (fun v => status (write v small) 0x00000003#32) = true := by decide

/-- P1, P3: the words of the programs. -/
theorem test_encode_words :
    [Instr.b64eInit, .b64ePut 0x48#8, .b64eEnd, .keyClr, .keyPut 0x42#8, .brdInit, .brdDec 0x6C#8].map encode =
      [0x00000200#32, 0x00000348#32, 0x00000400#32, 0x00000800#32, 0x00000942#32, 0x00000A00#32, 0x00000C6C#32] := by decide

theorem test_table_word : decodeTableWord 32 0x3FF = some (.b64ePut 0xFF#8) ∧ decodeTableWord 32 0xD01 = none := by decide

/-! ### The text form (R97, R98, R99) -/

/-- R97's examples. -/
theorem test_text_command :
    (parseCommand ['B', '6', '4', 'E', '.', 'P', 'U', 'T', ' ', Char.ofNat 39, 'M', Char.ofNat 39]).map encode =
        some 0x0000034D#32 ∧
      (parseCommand ['K', 'E', 'Y', '.', 'P', 'U', 'T', ' ', '0', 'x', '4', '1']).map encode = some 0x00000941#32 ∧
      parseCommand ['B', '6', '4', 'E', '.', 'P', 'U', 'T', ' ', '2', '5', '6'] = none := by decide

/-- R98. -/
theorem test_text_line :
    parseLine ['R', 'D', ' ', 'O', 'U', 'T', ' ', '-', '>', ' ', '0', 'x', '1', '5', '4'] = some [.read 2] ∧
      parseLine ['D', 'R', 'A', 'I', 'N'] = some [.drain] ∧
      parseLine ['W', 'R', ' ', 'C', 'M', 'D', ',', ' ', 'R', 'S', 'T'] = some [.write 0 0x00000100#32] ∧
      parseLine ['W', 'R', ' ', 'C', 'M', 'D', ' ', '0', 'x', '0', '0', '0', '0', '0', 'B', '4', '8'] =
        some [.write 0 0x00000B48#32] := by decide

/-- P1: `ENCODE "Hi"`; V42: `DECRYPT 46 6C, "BA"`. -/
theorem test_text_pseudo :
    parseLine ['E', 'N', 'C', 'O', 'D', 'E', ' ', Char.ofNat 34, 'H', 'i', Char.ofNat 34] =
        some [.write 0 0x00000200#32, .write 0 0x00000348#32, .write 0 0x00000369#32, .write 0 0x00000400#32] ∧
      parsePseudo ['D', 'E', 'C', 'R', 'Y', 'P', 'T', ' ', '4', '6', ' ', '6', 'C', ',', ' ', Char.ofNat 34, 'B', 'A',
          Char.ofNat 34] = some (.decrypt [0x46#8, 0x6C#8] [0x42#8, 0x41#8]) := by decide

/-- R98, R99 as log entry 9 reads them: tabs and several blanks between the parts of a line, a pseudo-command of no bytes, and any
note after the arrow. -/
theorem test_text_blanks :
    parseLine ['W', 'R', '\t', 'C', 'M', 'D', ' ', ',', '\t', 'R', 'S', 'T', ' '] = some [.write 0 0x00000100#32] ∧
      parseLine ['R', 'D', '\t', ' ', 'C', 'A', 'P', '-', '>', '?'] = some [.read 7] ∧
      parseLine ['B', 'R', 'D', '.', 'E', 'N', 'C', 'S', '\t', '1', '0', '\t', '1', '1'] =
        some [.write 0 0x00000B10#32, .write 0 0x00000B11#32] ∧
      parseLine ['B', '6', '4', 'E', '.', 'S', 'T', 'R'] = some [] ∧
      parseLine ['W', 'R', 'C', 'M', 'D', ',', 'R', 'S', 'T'] = none ∧ parseLine ['R', 'D', 'C', 'A', 'P'] = none := by decide

/-- R99 as log entry 9 reads it: the bytes of a list alone, after `0x`, and mixed; an `0x` without two digits is refused. -/
theorem test_text_hex_list :
    parsePseudo ['E', 'N', 'C', 'O', 'D', 'E', ' ', '0', 'x', '4', '6', ' ', '0', 'x', '6', 'C'] =
        some (.encode [0x46#8, 0x6C#8]) ∧
      parsePseudo ['D', 'E', 'C', 'R', 'Y', 'P', 'T', ' ', '0', 'x', '4', '6', ' ', '6', 'C', ',', ' ', '0', 'x', '4', '2'] =
        some (.decrypt [0x46#8, 0x6C#8] [0x42#8]) ∧
      parsePseudo ['E', 'N', 'C', 'O', 'D', 'E', ' ', '4', '6', ' ', '0', 'x', '6'] = none := by decide

/-! ### One step of each command -/

/-- V60. -/
theorem test_nop_at_full_queue : ends (write 0x00000000#32 full) full = true := by decide

/-- V51: from a busy state. -/
theorem test_rst_busy :
    ends (write 0x00000100#32
        { keyed with encN := 1, encB0 := 0x4D#8, decN := 1, decS0 := 19#6, dcnt := 3#32, kidx := 1, ofs := 0xFE#8,
                     outq := [0x46#8, 0x4D#8, 0x61#8, 0x6E#8] }) small = true := by decide

/-- V57c: the return from a fault. -/
theorem test_rst_faulted : ends (write 0x00000100#32 (faulted .noKey)) small = true := by decide

/-- V50. -/
theorem test_enc_init : ends (write 0x00000200#32 { small with encN := 1, encB0 := 0x4D#8 }) small = true := by decide

/-- V5: the third byte of `Man` emits `TWFu`. -/
theorem test_enc_put_group :
    ends (write 0x0000036E#32 { small with encN := 2, encB0 := 0x4D#8, encB1 := 0x61#8 }) full = true := by decide

/-- V59: the overrun keeps the group. -/
theorem test_enc_put_overrun :
    status (write 0x0000036E#32 { full with encN := 2, encB0 := 0x4D#8, encB1 := 0x61#8 }) 0x00000429#32 = true := by decide

/-- V3, V4: `TQ==`, `TWE=`. -/
theorem test_enc_end_padding :
    queue (write 0x00000400#32 { small with encN := 1, encB0 := 0x4D#8 }) = [0x54#8, 0x51#8, 0x3D#8, 0x3D#8] ∧
      queue (write 0x00000400#32 { small with encN := 2, encB0 := 0x4D#8, encB1 := 0x61#8 }) =
        [0x54#8, 0x57#8, 0x45#8, 0x3D#8] := by decide

/-- V60b. -/
theorem test_enc_end_overrun :
    status (write 0x00000400#32 { full with encN := 1, encB0 := 0x4D#8 }) 0x00000419#32 = true := by decide

/-- V50. -/
theorem test_dec_init :
    ends (write 0x00000500#32 { small with decN := 2, decS0 := 19#6, decS1 := 22#6, dcnt := 7#32 }) small = true := by decide

/-- V14: the fourth character of `TWFu`. -/
theorem test_dec_put_group :
    ends (write 0x00000675#32 { small with decN := 3, decS0 := 19#6, decS1 := 22#6, decS2 := 5#6 })
      { small with dcnt := 3#32, outq := [0x4D#8, 0x61#8, 0x6E#8] } = true := by decide

/-- V62: a space is skipped, `u` overruns. -/
theorem test_dec_put_skip_and_overrun :
    let s := { small with decN := 3, decS0 := 19#6, decS1 := 22#6, decS2 := 5#6, dcnt := 3#32,
                          outq := [0x4D#8, 0x61#8, 0x6E#8] }
    status (write 0x00000620#32 s) 0x000003C0#32 = true ∧ status (write 0x00000675#32 s) 0x000003C9#32 = true := by decide

/-- V15, V16, V17. -/
theorem test_dec_end_leftovers :
    queue (write 0x00000700#32 { small with decN := 1, decS0 := 19#6 }) = [0x4C#8] ∧
      queue (write 0x00000700#32 { small with decN := 2, decS0 := 19#6, decS1 := 22#6 }) = [0x4D#8] ∧
      queue (write 0x00000700#32 { small with decN := 3, decS0 := 19#6, decS1 := 22#6, decS2 := 5#6 }) =
        [0x4D#8, 0x61#8] := by decide

/-- V63: two bytes with one place free. -/
theorem test_dec_end_overrun :
    status (write 0x00000700#32
        { small with decN := 3, decS0 := 19#6, decS1 := 22#6, decS2 := 5#6, dcnt := 3#32, outq := [0x4D#8, 0x61#8, 0x6E#8] })
      0x000003C9#32 = true := by decide

/-- V44: OFS stays. -/
theorem test_key_clr : ends (write 0x00000800#32 { keyed with kidx := 1, ofs := 0xFF#8 }) { small with ofs := 0xFF#8 } = true := by
  decide

/-- V32 row 3: the key grows and KIDX restarts. -/
theorem test_key_put : ends (write 0x00000942#32 { small with key := [0x41#8], kidx := 0 }) keyed = true := by decide

/-- V58. -/
theorem test_key_put_overflow : ends (write 0x00000943#32 keyed) { keyed with err := true, errcode := .keyOverflow } = true := by
  decide

/-- V45: OFS unchanged. -/
theorem test_brd_init : ends (write 0x00000A00#32 { keyed with kidx := 1, ofs := 0x03#8 }) { keyed with ofs := 0x03#8 } = true := by
  decide

/-- V32 rows 7 and 11 (S1 of the source). -/
theorem test_brd_enc_scenario :
    ends (write 0x00000B48#32 keyed) { keyed with kidx := 1, ofs := 0xFE#8, outq := [0x46#8] } = true ∧
      ends (write 0x00000B69#32 { keyed with kidx := 1 }) { keyed with ofs := 0x03#8, outq := [0x6C#8] } = true := by decide

/-- The adder's corners: FF + 3, 01 - 2. -/
theorem test_brd_enc_wraps :
    queue (write 0x00000BFF#32 { keyed with kidx := 1 }) = [0x02#8] ∧ queue (write 0x00000B01#32 keyed) = [0xFF#8] := by decide

/-- V32 rows 14 and 15. -/
theorem test_brd_dec_scenario :
    ends (write 0x00000C46#32 keyed) { keyed with kidx := 1, ofs := 0xFE#8, outq := [0x48#8] } = true ∧
      ends (write 0x00000C6C#32 { keyed with kidx := 1 }) { keyed with ofs := 0x03#8, outq := [0x69#8] } = true := by decide

/-- The adder's corners: 00 - 3, FF + 2. -/
theorem test_brd_dec_wraps :
    queue (write 0x00000C00#32 { keyed with kidx := 1 }) = [0xFD#8] ∧ queue (write 0x00000CFF#32 keyed) = [0x01#8] := by decide

/-- V43: nothing emitted, no advance; V57d: NO_KEY. -/
theorem test_brd_ofs :
    ends (write 0x00000D00#32 { keyed with kidx := 1 }) { keyed with kidx := 1, ofs := 0x03#8 } = true ∧
      status (write 0x00000D00#32 small) 0x00000007#32 = true := by decide

/-- V64, V65: NO_KEY and ILLEGAL come before OUT_OVERRUN; V57b: an illegal word is ignored while faulted. -/
theorem test_fault_priority :
    status (write 0x00000B01#32 full) 0x00000407#32 = true ∧ status (write 0x00000E41#32 full) 0x00000403#32 = true ∧
      ends (write 0xFFFFFFFF#32 (faulted .noKey)) (faulted .noKey) = true := by decide

/-- V39: the decision table. -/
theorem test_offsets :
    [(offset 0x00#8 1).sext8, (offset 0x41#8 2).sext8, (offset 0x42#8 2).sext8, (offset 0x43#8 5).sext8,
        (offset 0x44#8 5).sext8, (offset 0x45#8 5).sext8, (offset 0xFF#8 256).sext8, (offset 0xFE#8 300).sext8] =
      [0x03#8, 0xFE#8, 0x03#8, 0xFF#8, 0x02#8, 0xFF#8, 0x02#8, 0xFF#8] := by decide

/-! ### Registers -/

/-- V46. -/
theorem test_reset_reads :
    [HostReg.cmd, .status, .out, .dcnt, .keylen, .kidx, .ofs, .cap].map (fun g => readValue g State.reset) =
      [0#32, 0#32, 0#32, 0#32, 0#32, 0#32, 0#32, 0x00400200#32] := by decide

/-- V51, V48, V54. -/
theorem test_register_values :
    statusWord { full with encN := 1, decN := 1 } = 0x00000450#32 ∧ outWord { small with outq := [0x00#8] } = 0x00000100#32 ∧
      capWord { keyMax := 65535, outDepth := 65535 } = 0xFFFFFFFF#32 := by decide

/-- P2: a read of OUT returns 0x148 and leaves 0x69. -/
theorem test_read_out :
    ends (step (waiting { small with outq := [0x48#8, 0x69#8] } [.read 2]))
      { small with outq := [0x69#8], returned := [{ reg := .out, value := 0x00000148#32 }] } = true := by decide

/-! ### Streams -/

/-- V5, V10's end, V8b, V9. -/
theorem test_enc_text :
    encText [0x4D#8, 0x61#8, 0x6E#8] = [0x54#8, 0x57#8, 0x46#8, 0x75#8] ∧
      encText [0x48#8, 0x69#8] = [0x53#8, 0x47#8, 0x6B#8, 0x3D#8] ∧
      encText [0xFB#8, 0xFF#8] = [0x2B#8, 0x2F#8, 0x38#8, 0x3D#8] := by decide

/-- V21, V25. -/
theorem test_dec_text :
    decText [0x54#8, 0x51#8, 0x3D#8, 0x3D#8, 0x54#8, 0x51#8, 0x3D#8, 0x3D#8] = [0x4D#8, 0x04#8, 0xD0#8] ∧
      decText [0x2B#8, 0x2B#8, 0x2B#8, 0x2B#8] = [0xFB#8, 0xEF#8, 0xBE#8] := by decide

/-- V33, and V32 back. -/
theorem test_braid_text :
    encryptText [0x41#8] (by decide) [0x48#8, 0x69#8, 0x21#8] = [0x4B#8, 0x6C#8, 0x24#8] ∧
      decryptText [0x41#8, 0x42#8] (by decide) [0x46#8, 0x6C#8] = [0x48#8, 0x69#8] := by decide

/-! ### Witnesses: for each statement with premises, values that meet them, each clause at the edge of its range -/

/-- EveryWordSelectsAtMostOneRow. -/
theorem test_wit_row_selection :
    decode 0x000003FF#32 = .legal (.b64ePut 0xFF#8) ∧ decode 0x00000E00#32 = .illegal .reservedOpcode := by decide

/-- DecodeFollowsTheProcedureAndAccepts1289Words: each range at its edges. -/
theorem test_wit_decode_ranges :
    (0x00001000#32).toNat / 4096 ≠ 0 ∧ ((0x00000FFF#32).toNat / 4096 = 0 ∧ 14 ≤ (0x00000E00#32).toNat / 256) ∧
      (0x000003FF#32).toNat / 256 ∈ [0x3, 0x6, 0x9, 0xB, 0xC] ∧
      ((0x00000D00#32).toNat / 256 ∈ [0x0, 0x1, 0x2, 0x4, 0x5, 0x7, 0x8, 0xA, 0xD] ∧ (0x00000D00#32).toNat % 256 = 0) ∧
      (0x00000D01#32).toNat % 256 ≠ 0 := by decide

/-- CommandTextReadsBack: a command of each kind, the ends of the ranges of digits, characters and numbers. -/
theorem test_wit_command_text :
    takesOperand (Instr.fields .brdOfs).op = false ∧ takesOperand (Instr.fields (.brdDec 0)).op = true ∧
      hexDigit '0' = some 0 ∧ hexDigit 'F' = some 15 ∧ 32 ≤ ' '.toNat ∧ '~'.toNat ≤ 126 ∧
      parseCommand (['K', 'E', 'Y', '.', 'P', 'U', 'T'] ++ [' '] ++ Nat.toDigits 10 255) = some (.keyPut 0xFF#8) := by decide

/-- StepRunsTheWrittenCommand. -/
theorem test_wit_step_runs :
    (waiting small [.write 0 0x0000034D#32, .drain]).pending = .write 0 0x0000034D#32 :: [.drain] ∧
      decode 0x0000034D#32 = .legal (.b64ePut 0x4D#8) := by decide

/-- IllegalWordRaisesIllegal: a word of each kind, both values of ERR. -/
theorem test_wit_illegal :
    (0x00001000#32).toNat / 4096 ≠ 0 ∧ ((0x00000E00#32).toNat / 256) % 16 = 0xE ∧ ((0x00000F00#32).toNat / 256) % 16 = 0xF ∧
      (((0x00000D01#32).toNat / 256) % 16 ∈ [0x0, 0x1, 0x2, 0x4, 0x5, 0x7, 0x8, 0xA, 0xD] ∧ (0x00000D01#32).toNat % 256 ≠ 0) ∧
      (waiting small [.write 0 0x00000E00#32]).err = false ∧ (waiting (faulted .noKey) [.write 0 0x00000E00#32]).err = true := by
  decide

/-- FaultedUnitIgnoresAllButRst, OnlyResetsClearTheFault. -/
theorem test_wit_faulted :
    (faulted .outOverrun).err = true ∧ (0x00000000#32) ≠ 0x00000100#32 ∧
      ∃ t, step (waiting (faulted .outOverrun) [.write 0 0x00000100#32]) = .next t ∧ t.err = false := ⟨rfl, by decide, _, rfl, rfl⟩
theorem test_wit_faulted_hardware_reset :
    ∃ t, step (waiting (faulted .illegal) [.hardwareReset]) = .next t ∧ t.err = false := ⟨_, rfl, rfl⟩

/-- WritesToOtherRegistersAreIgnored: the registers 0, 1 and 7. -/
theorem test_wit_register_writes :
    ends (step (waiting full [.write 0 0x00000000#32])) full = true ∧
      ends (step (waiting full [.write 1 0xFFFFFFFF#32])) full = true ∧ ends (step (waiting full [.write 7 7#32])) full = true := by
  decide

/-- MissingRegisterStopsTheModel: the first number that has no register. -/
theorem test_wit_missing_register :
    (7 < 8) ∧ step (waiting small [.write 8 0#32]) = .refused (.noSuchRegister 8) ∧
      step (waiting small [.read 8]) = .refused (.noSuchRegister 8) := ⟨by decide, rfl, rfl⟩

/-- ReadsReturnTheDataRegisters, ReadOfStatusReturnsTheFields: a state with the invariant, and each register number. -/
theorem test_wit_reads :
    keyed.Inv ∧ full.Inv ∧
      [0, 1, 3, 4, 5, 6, 7].all (fun r => (waiting keyed [.read r]).pending = .read r :: []) = true := by decide

/-- ReadOfOutPopsTheQueue: an empty and a non-empty queue; DrainCollectsTheWholeQueue on both. -/
theorem test_wit_out :
    small.outq = [] ∧ full.outq = 0x54#8 :: [0x57#8, 0x46#8, 0x75#8] ∧
      (waiting small [.drain]).pending = .drain :: [] ∧ (waiting full [.drain]).pending = .drain :: [] := by decide

/-- HardwareResetGivesTheResetState. -/
theorem test_wit_hardware_reset : ends (step (waiting (faulted .noKey) [.hardwareReset])) small = true := by decide

/-- ResetStateAndItsRegisters: the smallest and the largest unit. -/
theorem test_wit_parameters :
    Config.WellFormed { keyMax := 1, outDepth := 4 } ∧ Config.WellFormed { keyMax := 65535, outDepth := 65535 } := by decide

/-- IdleUnitKeepsItsState; and the premise `ERR = 0` of the statements of single commands. -/
theorem test_wit_idle : full.pending = [] ∧ full.err = false ∧ keyed.err = false := by decide

/-- EncPutHoldsOrEmitsAGroup, EncEndEmitsThePaddedGroup: every fill of the group, 4 places free and 3. -/
theorem test_wit_encoder :
    (small.encN = 0 ∧ small.EncClean) ∧
      (let s := { small with encN := 1, encB0 := 0x4D#8 }
       s.encN = 1 ∧ s.EncClean ∧ 4 ≤ s.cfg.outDepth - s.outq.length) ∧
      (let s := { small with encN := 2, encB0 := 0x4D#8, encB1 := 0x61#8 }
       s.encN = 2 ∧ s.EncClean ∧ 4 ≤ s.cfg.outDepth - s.outq.length) ∧
      (let s := { small with encN := 2, encB0 := 0x4D#8, encB1 := 0x61#8, outq := [0x00#8] }
       s.encN = 2 ∧ s.EncClean ∧ s.err = false ∧ s.cfg.outDepth - s.outq.length = 3) ∧
      (let s := { small with encN := 1, encB0 := 0x4D#8, outq := [0x00#8] }
       s.encN = 1 ∧ s.EncClean ∧ s.err = false ∧ s.cfg.outDepth - s.outq.length = 3) := by decide

/-- `small` with the first n slots of `TWF` held and a queue of the given length. -/
def holding (n : Fin 4) (level : Nat) : State :=
  { small with decN := n
               decS0 := if n = 0 then 0 else 19#6
               decS1 := if n.val ≤ 1 then 0 else 22#6
               decS2 := if n.val ≤ 2 then 0 else 5#6
               outq := List.replicate level 0x00#8 }

/-- DecPutSkipsHoldsOrEmitsAGroup: a skipped character and a held one, exactly enough places and one too few. -/
theorem test_wit_decoder_put :
    dec6 0x3D#8 = none ∧ dec6 0x2F#8 = some 63#6 ∧ [0, 1, 2].all (fun n => (holding n 4).decN = n) = true ∧
      ((holding 3 1).decN = 3 ∧ 3 ≤ (holding 3 1).cfg.outDepth - (holding 3 1).outq.length) ∧
      ((holding 3 2).err = false ∧ (holding 3 2).cfg.outDepth - (holding 3 2).outq.length < 3) := by decide

/-- DecEndFlushesThePartialGroup: every fill, exactly enough places and one too few. -/
theorem test_wit_decoder_end :
    ((holding 0 4).decN = 0 ∧ (holding 0 4).DecClean) ∧
      [1, 2].all (fun n => (holding n 3).DecClean ∧ 1 ≤ (holding n 3).cfg.outDepth - (holding n 3).outq.length) = true ∧
      [1, 2].all (fun n => (holding n 4).DecClean ∧ (holding n 4).cfg.outDepth - (holding n 4).outq.length < 1) = true ∧
      ((holding 3 2).DecClean ∧ 2 ≤ (holding 3 2).cfg.outDepth - (holding 3 2).outq.length) ∧
      ((holding 3 3).DecClean ∧ (holding 3 3).cfg.outDepth - (holding 3 3).outq.length < 2) := by decide

/-- KeyPutAppendsOrOverflows: one place left, and none. -/
theorem test_wit_key_put :
    ({ small with key := [0x41#8] } : State).key.length ≠ small.cfg.keyMax ∧ keyed.key.length = keyed.cfg.keyMax := by decide

/-- BrdEncAddsTheOffset, BrdDecSubtractsTheOffset, BrdOfsRecordsTheOffset: no key, the last position, a full queue. -/
theorem test_wit_braid :
    small.key = [] ∧
      (let s := { keyed with kidx := 1, outq := [0#8, 0#8, 0#8] }
       s.kidx < s.key.length ∧ s.cfg.outDepth - s.outq.length = 1) ∧
      (let s := { keyed with outq := [0#8, 0#8, 0#8, 0#8] }
       s.err = false ∧ s.key ≠ [] ∧ s.kidx < s.key.length ∧ s.cfg.outDepth - s.outq.length < 1) := by decide

/-- KeyReadPastTheEndStops: a state no run reaches. -/
theorem test_wit_past_the_end :
    (let s := { keyed with kidx := 2 }
     s.err = false ∧ s.key ≠ [] ∧ s.key.length ≤ s.kidx ∧ 1 ≤ s.free) ∧
      exec .brdOfs { keyed with kidx := 2 } = .fault .keyReadPastEnd := ⟨by decide, rfl⟩

/-- FaultsFollowTheOrderedChecks: a command of each fault, and one without. -/
theorem test_wit_faults :
    faultOf (.b64ePut 0x6E#8) { full with encN := 2 } = .outOverrun ∧ faultOf (.keyPut 0x43#8) keyed = .keyOverflow ∧
      faultOf (.brdEnc 0x01#8) full = .noKey ∧ faultOf .b64eInit full = .none ∧ ends (exec .b64eInit full) full = true := by decide

/-- EmissionCountsAreTheTable, EncoderCommandsFrame: a command that emits. -/
theorem test_wit_emission :
    isEncoderCommand .b64eEnd = true ∧
      ∃ t, exec .b64eEnd { small with encN := 1, encB0 := 0x4D#8 } = .next t ∧ t.err = false ∧ t.outq.length = 4 :=
  ⟨rfl, _, rfl, rfl, rfl⟩

/-- DecoderCommandsFrame. -/
theorem test_wit_decoder_frame :
    isDecoderCommand .b64dEnd = true ∧ ∃ t, exec .b64dEnd { small with decN := 1, decS0 := 19#6 } = .next t ∧ t.outq.length = 1 :=
  ⟨rfl, _, rfl, rfl⟩

/-- BraidCommandsFrame: a command that changes each of the key, the queue and OFS, and the overflow. -/
theorem test_wit_braid_frame :
    isBraidCommand (.brdEnc 0x48#8) = true ∧ (∃ t, exec (.brdEnc 0x48#8) keyed = .next t ∧ t.outq = [0x46#8]) ∧
      (∃ t, exec (.keyPut 0x43#8) keyed = .next t ∧ t.err = true) ∧ ∃ t, exec .brdInit keyed = .next t ∧ t = keyed :=
  ⟨rfl, ⟨_, rfl, by decide⟩, ⟨_, rfl, rfl⟩, _, rfl, rfl⟩

/-- InvariantKeptByEveryStep, ParametersNeverChange, EveryAccessCompletes: a state with the invariant and a step from it. -/
theorem test_wit_invariant_step :
    (waiting keyed [.write 0 0x00000B48#32]).Inv ∧ (∃ t, step (waiting keyed [.write 0 0x00000B48#32]) = .next t) ∧
      (waiting keyed [.write 7 0#32]).Inv ∧ (waiting keyed [.read 7]).Inv := ⟨by decide, ⟨_, rfl⟩, by decide, by decide⟩

/-- EnginesShareOnlyTheQueue: two states that agree for an engine and differ elsewhere. -/
theorem test_wit_shared_queue :
    (small.encView = keyed.encView ∧ small ≠ keyed ∧ ∃ t, exec (.b64ePut 0x4D#8) small = .next t) ∧
      (small.decView = keyed.decView ∧ ∃ t, exec (.b64dPut 0x54#8) small = .next t) ∧
      (keyed.brdView = ({ keyed with encN := 1, encB0 := 0x4D#8 } : State).brdView ∧ ∃ t, exec (.brdEnc 0x48#8) keyed = .next t) :=
  ⟨⟨rfl, by decide, _, rfl⟩, ⟨rfl, _, rfl⟩, rfl, _, rfl⟩

/-- OutputIsFirstInFirstOut: a read, a drain and a write that complete. -/
theorem test_wit_fifo :
    (∃ t, step (waiting full [.read 2]) = .next t) ∧ (∃ t, step (waiting full [.drain]) = .next t) ∧
      (0x00000B48#32) ≠ 0x00000100#32 ∧ ∃ t, step (waiting keyed [.write 0 0x00000B48#32]) = .next t :=
  ⟨⟨_, rfl⟩, ⟨_, rfl⟩, by decide, _, rfl⟩

/-- DecisionTableOverTheRemainder: each row (V39). -/
theorem test_wit_decision_table :
    (0 < 5 ∧ (0x41#8).toNat = 13 * 5 + 0) ∧ (1 < 2 ∧ (0x41#8).toNat = 32 * 2 + 1) ∧ (2 < 5 ∧ (0x43#8).toNat = 13 * 5 + 2) ∧
      (255 < 256 ∧ (0xFF#8).toNat = 0 * 256 + 255) := by decide

/-- AlphabetMapsAreInverse: the ends of the table's ranges. -/
theorem test_wit_alphabet :
    [0x41#8, 0x5A#8, 0x61#8, 0x7A#8, 0x30#8, 0x39#8, 0x2B#8, 0x2F#8].map dec6 =
        [some 0#6, some 25#6, some 26#6, some 51#6, some 52#6, some 61#6, some 62#6, some 63#6] ∧
      [0x2A#8, 0x2C#8, 0x2E#8, 0x3A#8, 0x40#8, 0x5B#8, 0x60#8, 0x7B#8, 0xFF#8].all (fun c => dec6 c = none) = true ∧
      enc6 0#6 = 0x41#8 := by decide

/-- InvalidCharactersAreTransparent (V20): the valid characters of `S-G.k!=` and of `SGk`. -/
theorem test_wit_transparent :
    ([0x53#8, 0x2D#8, 0x47#8, 0x2E#8, 0x6B#8, 0x21#8, 0x3D#8].filter fun c => (dec6 c).isSome) =
      ([0x53#8, 0x47#8, 0x6B#8].filter fun c => (dec6 c).isSome) := by decide

/-- StreamingEncodeEqualsBatch: three bytes, and none. -/
theorem test_wit_streaming :
    (∃ t, execAll (Pseudo.b64eStr [0x4D#8, 0x61#8, 0x6E#8]).expand small = .next t ∧ t.err = false) ∧
      ∃ t, execAll (Pseudo.b64eStr []).expand small = .next t ∧ t.err = false := ⟨⟨_, rfl, rfl⟩, _, rfl, rfl⟩

/-- The accesses of EncodeRunDeliversEnc for one byte, with a read between them. -/
def encodeAccesses : List HostAccess :=
  commandWrites [.b64eInit, .b64ePut 0x4D#8] ++ [.read 2] ++ commandWrites [.b64eEnd]

theorem test_wit_encode_run :
    Carries encodeAccesses (Pseudo.encode [0x4D#8]).expand ∧
      ∃ t, Host.Core.run core encodeAccesses.length (waiting small encodeAccesses) = .next t ∧ State.err t = false :=
  ⟨by decide, _, rfl, rfl⟩

/-- The accesses of DecodeRunDeliversDec for `T=`, with a read between them. -/
def decodeAccesses : List HostAccess :=
  commandWrites [.b64dInit, .b64dPut 0x54#8] ++ [.read 3] ++ commandWrites [.b64dPut 0x3D#8, .b64dEnd]

theorem test_wit_decode_run :
    Carries decodeAccesses (Pseudo.decode [0x54#8, 0x3D#8]).expand ∧
      ∃ t, Host.Core.run core decodeAccesses.length (waiting small decodeAccesses) = .next t ∧ State.err t = false :=
  ⟨by decide, _, rfl, rfl⟩

/-- The accesses of BraidRunDeliversTheCipher for one byte each way. -/
theorem test_wit_braid_run :
    Carries [.write 0 0x00000B48#32, .read 2] (Pseudo.brdEncs [0x48#8]).expand ∧
      (∃ t, Host.Core.run core 2 (waiting keyed [.write 0 0x00000B48#32, .read 2]) = .next t ∧ State.err t = false) ∧
      Carries [.write 0 0x00000C46#32] (Pseudo.brdDecs [0x46#8]).expand ∧
      ∃ t, Host.Core.run core 1 (waiting keyed [.write 0 0x00000C46#32]) = .next t ∧ State.err t = false :=
  ⟨by decide, ⟨_, rfl, rfl⟩, by decide, _, rfl, rfl⟩

theorem test_wit_encrypt_run :
    (let l := commandWrites (Pseudo.encrypt [0x48#8] [0x41#8]).expand
     Carries l (Pseudo.encrypt [0x48#8] [0x41#8]).expand ∧
      ∃ t, Host.Core.run core l.length (waiting small l) = .next t ∧ State.err t = false) ∧
    (let l := commandWrites (Pseudo.decrypt [0x4B#8] [0x41#8]).expand
     Carries l (Pseudo.decrypt [0x4B#8] [0x41#8]).expand ∧
      ∃ t, Host.Core.run core l.length (waiting small l) = .next t ∧ State.err t = false) :=
  ⟨⟨by decide, _, rfl, rfl⟩, by decide, _, rfl, rfl⟩

/-- OffsetOfAPositionIsLeftInOfs: positions 1 and 2 of the key `A`. -/
theorem test_wit_offset_of_position :
    (let l := commandWrites [.keyClr, .keyPut 0x41#8, .brdInit, .brdOfs]
     Carries l ((Pseudo.keyLoad [0x41#8]).expand ++ List.replicate (1 - 1) (.brdEnc 0x00#8) ++ [.brdOfs]) ∧
      ∃ t, Host.Core.run core l.length (waiting small l) = .next t ∧ State.err t = false) ∧
    (let l := commandWrites [.keyClr, .keyPut 0x41#8, .brdInit, .brdEnc 0x00#8, .brdOfs]
     Carries l ((Pseudo.keyLoad [0x41#8]).expand ++ List.replicate (2 - 1) (.brdEnc 0x00#8) ++ [.brdOfs]) ∧
      ∃ t, Host.Core.run core l.length (waiting small l) = .next t ∧ State.err t = false) :=
  ⟨⟨by decide, _, rfl, rfl⟩, by decide, _, rfl, rfl⟩

/-- SequencesCompleteWithRoom: exactly enough room. -/
theorem test_wit_room :
    (encText [0x4D#8]).length ≤ small.free ∧ (decText [0x54#8]).length ≤ small.free ∧
      [0x41#8, 0x42#8].length ≤ small.cfg.keyMax ∧ [0x00#8, 0x00#8, 0x00#8, 0x00#8].length ≤ small.free := by decide

end Sys2Proof.Tests
end

section
/-! PROOFS. The engines share OUTQ and the flags, and nothing else (00_scope.md R2, R242), and the idle unit (R212). -/

namespace Sys2Proof.Machine

open Sys2Proof

/-! ### Non-interference between the engines (R2, R242) -/

/-- What one engine's commands can see: a part of the state that holds the parameters, OUTQ and the flags, and that fault entry
and emission change by what it holds. -/
structure EngineView {α : Type} (V : State → α) : Prop where
  cfg        : ∀ {s1 s2 : State}, V s1 = V s2 → s1.cfg = s2.cfg
  outq       : ∀ {s1 s2 : State}, V s1 = V s2 → s1.outq = s2.outq
  err        : ∀ {s1 s2 : State}, V s1 = V s2 → s1.err = s2.err
  raiseFault : ∀ {s1 s2 : State} (c : ErrCode), V s1 = V s2 → V (s1.raiseFault c) = V (s2.raiseFault c)
  emit       : ∀ {s1 s2 : State} (bs : List Byte), V s1 = V s2 → V (s1.emit bs) = V (s2.emit bs)

/-- Where the first outcome is a next state, so is the second, and the two states agree on the view. -/
def AgreeOn {α : Type} (V : State → α) (r1 r2 : Result) : Prop :=
  ∀ t1, r1 = .next t1 → ∃ t2, r2 = .next t2 ∧ V t2 = V t1

/-- The same bytes to emit, and states after it that agree on the view. -/
def EffectsAgree {α : Type} (V : State → α) (eff1 eff2 : Effect) : Prop :=
  eff1.out = eff2.out ∧ V eff1.after = V eff2.after

section Agreement

variable {α : Type} {V : State → α} {s1 s2 : State}

theorem AgreeOn.next (h : V s1 = V s2) : AgreeOn V (.next s1) (.next s2) := by
  rintro t1 ⟨⟩
  exact ⟨s2, rfl, h.symm⟩

theorem EngineView.free (hV : EngineView V) (h : V s1 = V s2) : s1.free = s2.free := by
  simp only [State.free, hV.cfg h, hV.outq h]

/-- The checks of R200 see the flags and the free places only, so they keep agreement. -/
theorem attempt_agreeOn (hV : EngineView V) (h : V s1 = V s2) {own : Option ErrCode} {e : Nat} {body1 body2 : Result}
    (hb : AgreeOn V body1 body2) : AgreeOn V (attempt own e body1 s1) (attempt own e body2 s2) := by
  unfold attempt
  rw [hV.err h, hV.free h]
  split
  · exact .next h
  · split
    · exact .next (hV.raiseFault _ h)
    · split
      · exact .next (hV.raiseFault _ h)
      · exact hb

theorem runEffect_agreeOn (hV : EngineView V) (h : V s1 = V s2) {eff1 eff2 : Effect}
    (he : EffectsAgree V eff1 eff2) : AgreeOn V (runEffect eff1 s1) (runEffect eff2 s2) := by
  obtain ⟨ho, ha⟩ := he
  unfold runEffect
  rw [ho]
  exact attempt_agreeOn hV h (.next (hV.emit _ ha))

end Agreement

theorem encView_eq_iff {s1 s2 : State} : s1.encView = s2.encView ↔
    s1.cfg = s2.cfg ∧ s1.encN = s2.encN ∧ s1.encB0 = s2.encB0 ∧ s1.encB1 = s2.encB1 ∧ s1.outq = s2.outq ∧ s1.err = s2.err ∧
      s1.errcode = s2.errcode := by
  simp only [State.encView, Prod.mk.injEq]

theorem decView_eq_iff {s1 s2 : State} : s1.decView = s2.decView ↔
    s1.cfg = s2.cfg ∧ s1.decN = s2.decN ∧ s1.decS0 = s2.decS0 ∧ s1.decS1 = s2.decS1 ∧ s1.decS2 = s2.decS2 ∧
      s1.dcnt = s2.dcnt ∧ s1.outq = s2.outq ∧ s1.err = s2.err ∧ s1.errcode = s2.errcode := by
  simp only [State.decView, Prod.mk.injEq]

theorem brdView_eq_iff {s1 s2 : State} : s1.brdView = s2.brdView ↔
    s1.cfg = s2.cfg ∧ s1.key = s2.key ∧ s1.kidx = s2.kidx ∧ s1.ofs = s2.ofs ∧ s1.outq = s2.outq ∧ s1.err = s2.err ∧
      s1.errcode = s2.errcode := by
  simp only [State.brdView, Prod.mk.injEq]

theorem encView_engineView : EngineView State.encView := by
  constructor <;> intros <;> simp_all [encView_eq_iff]

theorem decView_engineView : EngineView State.decView := by
  constructor <;> intros <;> simp_all [decView_eq_iff]

theorem brdView_engineView : EngineView State.brdView := by
  constructor <;> intros <;> simp_all [brdView_eq_iff]

section Effects

variable {s1 s2 : State}

theorem encPutEffect_agree (d : Byte) (h : s1.encView = s2.encView) :
    EffectsAgree State.encView (encPutEffect d s1) (encPutEffect d s2) := by
  obtain ⟨hcfg, hn, hb0, hb1, hq, he, hc⟩ := encView_eq_iff.mp h
  unfold encPutEffect
  rw [hn]
  split_ifs <;> simp [EffectsAgree, encView_eq_iff, *]

theorem encEndEffect_agree (h : s1.encView = s2.encView) :
    EffectsAgree State.encView (encEndEffect s1) (encEndEffect s2) := by
  obtain ⟨hcfg, hn, hb0, hb1, hq, he, hc⟩ := encView_eq_iff.mp h
  unfold encEndEffect
  rw [hn]
  split_ifs <;> simp [EffectsAgree, encView_eq_iff, *]

theorem decPutValueEffect_agree (v : Sextet) (h : s1.decView = s2.decView) :
    EffectsAgree State.decView (decPutValueEffect v s1) (decPutValueEffect v s2) := by
  obtain ⟨hcfg, hn, hs0, hs1, hs2, hd, hq, he, hc⟩ := decView_eq_iff.mp h
  unfold decPutValueEffect
  rw [hn]
  split_ifs <;> simp [EffectsAgree, decView_eq_iff, *]

theorem decPutEffect_agree (c : Byte) (h : s1.decView = s2.decView) :
    EffectsAgree State.decView (decPutEffect c s1) (decPutEffect c s2) := by
  unfold decPutEffect
  cases dec6 c with
  | none => exact ⟨rfl, h⟩
  | some v => exact decPutValueEffect_agree v h

theorem flushBytes_eq_of_decView_eq (h : s1.decView = s2.decView) : flushBytes s1 = flushBytes s2 := by
  obtain ⟨-, hn, hs0, hs1, hs2, -, -, -, -⟩ := decView_eq_iff.mp h
  simp only [flushBytes, hn, hs0, hs1, hs2]

theorem decEndEffect_agree (h : s1.decView = s2.decView) :
    EffectsAgree State.decView { out := flushBytes s1, after := s1.clearDec.count (flushBytes s1).length }
      { out := flushBytes s2, after := s2.clearDec.count (flushBytes s2).length } := by
  rw [flushBytes_eq_of_decView_eq h]
  exact ⟨rfl, by simp_all [decView_eq_iff]⟩

end Effects

section Braid

variable {s1 s2 : State}

theorem keylen_eq_of_brdView_eq (h : s1.brdView = s2.brdView) : s1.keylen = s2.keylen :=
  congrArg List.length (brdView_eq_iff.mp h).2.1

theorem needsKey_eq_of_brdView_eq (h : s1.brdView = s2.brdView) : needsKey s1 = needsKey s2 := by
  unfold needsKey
  rw [keylen_eq_of_brdView_eq h]

theorem nextKidx_eq_of_brdView_eq (h : s1.brdView = s2.brdView) : nextKidx s1 = nextKidx s2 := by
  obtain ⟨-, -, hidx, -⟩ := brdView_eq_iff.mp h
  unfold nextKidx
  rw [keylen_eq_of_brdView_eq h, hidx]

theorem keyStoreCheck_eq_of_brdView_eq (h : s1.brdView = s2.brdView) : keyStoreCheck s1 = keyStoreCheck s2 := by
  unfold keyStoreCheck
  rw [keylen_eq_of_brdView_eq h, brdView_engineView.cfg h]

/-- A key read hands on the same byte, or stops, in states with the same key and key index. -/
theorem withKeyByte_agreeOn (h : s1.brdView = s2.brdView) {k1 k2 : Byte → Result}
    (hk : ∀ code, AgreeOn State.brdView (k1 code) (k2 code)) :
    AgreeOn State.brdView (withKeyByte s1 k1) (withKeyByte s2 k2) := by
  obtain ⟨-, hkey, hidx, -⟩ := brdView_eq_iff.mp h
  intro t1 ht
  obtain ⟨hlt, ht⟩ := withKeyByte_next ht
  rw [withKeyByte_of_lt (hkey ▸ hidx ▸ hlt)]
  simp only [hkey, hidx] at ht
  exact hk _ t1 ht

theorem braidData_agreeOn (f : Offset → Byte) (h : s1.brdView = s2.brdView) :
    AgreeOn State.brdView (braidData f s1) (braidData f s2) := by
  unfold braidData
  rw [needsKey_eq_of_brdView_eq h, keylen_eq_of_brdView_eq h, nextKidx_eq_of_brdView_eq h]
  refine attempt_agreeOn brdView_engineView h (withKeyByte_agreeOn h fun code => .next ?_)
  simp_all [brdView_eq_iff]

theorem execBrdOfs_agreeOn (h : s1.brdView = s2.brdView) :
    AgreeOn State.brdView (execBrdOfs s1) (execBrdOfs s2) := by
  unfold execBrdOfs
  rw [needsKey_eq_of_brdView_eq h, keylen_eq_of_brdView_eq h]
  refine attempt_agreeOn brdView_engineView h (withKeyByte_agreeOn h fun code => .next ?_)
  simp_all [brdView_eq_iff]

theorem execKeyPut_agreeOn (k : Byte) (h : s1.brdView = s2.brdView) :
    AgreeOn State.brdView (execKeyPut k s1) (execKeyPut k s2) := by
  unfold execKeyPut
  rw [keyStoreCheck_eq_of_brdView_eq h]
  refine attempt_agreeOn brdView_engineView h (.next ?_)
  simp_all [brdView_eq_iff]

end Braid

/-- A command of the B64E engine sees its group buffer, the queue and the flags only. -/
theorem exec_agreeOn_encView {i : Instr} {s1 s2 : State} (hi : isEncoderCommand i = true) (h : s1.encView = s2.encView) :
    AgreeOn State.encView (exec i s1) (exec i s2) := by
  cases i with
  | b64eInit => exact runEffect_agreeOn encView_engineView h ⟨rfl, by simp_all [encView_eq_iff]⟩
  | b64ePut d => exact runEffect_agreeOn encView_engineView h (encPutEffect_agree d h)
  | b64eEnd => exact runEffect_agreeOn encView_engineView h (encEndEffect_agree h)
  | _ => cases hi

/-- A command of the B64D engine sees its group buffer, the counter, the queue and the flags only. -/
theorem exec_agreeOn_decView {i : Instr} {s1 s2 : State} (hi : isDecoderCommand i = true) (h : s1.decView = s2.decView) :
    AgreeOn State.decView (exec i s1) (exec i s2) := by
  cases i with
  | b64dInit => exact runEffect_agreeOn decView_engineView h ⟨rfl, by simp_all [decView_eq_iff]⟩
  | b64dPut c => exact runEffect_agreeOn decView_engineView h (decPutEffect_agree c h)
  | b64dEnd => exact runEffect_agreeOn decView_engineView h (decEndEffect_agree h)
  | _ => cases hi

/-- A KEY or BRD command sees the key, its index, OFS, the queue and the flags only. -/
theorem exec_agreeOn_brdView {i : Instr} {s1 s2 : State} (hi : isBraidCommand i = true) (h : s1.brdView = s2.brdView) :
    AgreeOn State.brdView (exec i s1) (exec i s2) := by
  cases i with
  | keyClr => exact runEffect_agreeOn brdView_engineView h ⟨rfl, by simp_all [brdView_eq_iff]⟩
  | keyPut k => exact execKeyPut_agreeOn k h
  | brdInit => exact runEffect_agreeOn brdView_engineView h ⟨rfl, by simp_all [brdView_eq_iff]⟩
  | brdEnc m => exact braidData_agreeOn _ h
  | brdDec c => exact braidData_agreeOn _ h
  | brdOfs => exact execBrdOfs_agreeOn h
  | _ => cases hi

/-- Settles O43: each engine's commands keep agreement on that engine's view. -/
theorem enginesShareOnlyTheQueue : Obligations.EnginesShareOnlyTheQueue :=
  ⟨fun _ _ _ _ hi h => exec_agreeOn_encView hi h _, fun _ _ _ _ hi h => exec_agreeOn_decView hi h _,
    fun _ _ _ _ hi h => exec_agreeOn_brdView hi h _⟩

/-- Settles O18, by the law of the idle step. -/
theorem idleUnitKeepsItsState : Obligations.IdleUnitKeepsItsState :=
  fun _ => step_of_idle

end Sys2Proof.Machine
end

section
/-! PROOFS. What a run of plain accesses does (30_encoding.md R98, 70_reset_and_hazards.md R240), told on the state without the
host's side, so that it says the same wherever the host has read between the commands; and from it the runs of ENCRYPT, DECRYPT
and `BRD.OFS` (00_scope.md R13, R14). -/

namespace Sys2Proof

/-- Assembling and decoding again gives the command (R94, R97). -/
@[simp] theorem decode_encode (i : Instr) : decode (encode i) = .legal i := by
  unfold decode encode
  rw [fieldsOf_pack]
  cases i <;> rfl

end Sys2Proof

namespace Sys2Proof.Machine

open Sys2Proof

/-! ### The state without the host's side -/

/-- The state as it would be had the host not read: every byte delivered still queued, no access pending, none returned. -/
def State.unread (s : State) : State := { s with outq := s.delivered, pending := [], returned := [] }

section Unread

variable {s t : State}

theorem err_eq_of_unread_eq (h : s.unread = t.unread) : s.err = t.err := (congrArg State.err h :)

theorem key_eq_of_unread_eq (h : s.unread = t.unread) : s.key = t.key := (congrArg State.key h :)

theorem kidx_eq_of_unread_eq (h : s.unread = t.unread) : s.kidx = t.kidx := (congrArg State.kidx h :)

theorem delivered_eq_of_unread_eq (h : s.unread = t.unread) : s.delivered = t.delivered := (congrArg State.outq h :)

end Unread

@[simp] theorem delivered_emit (s : State) (bs : List Byte) : (s.emit bs).delivered = s.delivered ++ bs :=
  (List.append_assoc ..).symm

/-- A read of OUT from a queue that holds a byte returns that byte with VALID = 1 (R45). -/
theorem byte_outWord_cons (b : Byte) : ReadBack.byte ⟨.out, 0x100#32 ||| b.setWidth 32⟩ = some b := by
  have hbyte : (0x100#32 ||| b.setWidth 32).setWidth 8 = b := by
    rw [BitVec.setWidth_or, BitVec.setWidth_setWidth_of_le _ (by decide)]
    simp
  simp [ReadBack.byte, hbyte]

/-- A read hands over the byte it takes from OUTQ, so it leaves the sequence delivered as it is (R42, R45, R246). -/
theorem delivered_read (g : HostReg) (s : State) :
    ((readEffect g s).giveBack g (readValue g s)).delivered = s.delivered := by
  cases g with
  | out =>
    cases hq : s.outq with
    | nil => simp [State.delivered, readValue, outWord, hq, ReadBack.byte]
    | cons b q => simp [State.delivered, readValue, outWord, hq, byte_outWord_cons]
  | _ => simp [State.delivered, readEffect, ReadBack.byte]

theorem unread_read (g : HostReg) (s : State) :
    ((readEffect g s).giveBack g (readValue g s)).unread = s.unread := by
  unfold State.unread
  rw [delivered_read]
  cases g <;> rfl

/-! ### Commands that complete -/

section Completes

variable {s t : State}

theorem attempt_pending {own : Option ErrCode} {e : Nat} {body : Result} (h : attempt own e body s = .next t)
    (hb : body = .next t → t.pending = s.pending) : t.pending = s.pending := by
  rcases attempt_next h with ⟨-, rfl⟩ | ⟨-, ⟨c, -, rfl⟩ | ⟨-, -, rfl⟩ | ⟨-, -, ht⟩⟩
  · rfl
  · rfl
  · rfl
  · exact hb ht

theorem runEffect_pending {eff : Effect} (h : runEffect eff s = .next t) (ha : eff.after.pending = s.pending) :
    t.pending = s.pending :=
  attempt_pending h fun ht => by cases ht; exact ha

theorem braidData_pending {f : Offset → Byte} (h : braidData f s = .next t) : t.pending = s.pending :=
  attempt_pending h fun ht => by obtain ⟨_, ht⟩ := withKeyByte_next ht; cases ht; rfl

theorem encPutEffect_pending (d : Byte) (s : State) : (encPutEffect d s).after.pending = s.pending := by
  unfold encPutEffect
  split_ifs <;> rfl

theorem encEndEffect_pending (s : State) : (encEndEffect s).after.pending = s.pending := by
  unfold encEndEffect
  split_ifs <;> rfl

theorem decPutEffect_pending (c : Byte) (s : State) : (decPutEffect c s).after.pending = s.pending := by
  unfold decPutEffect decPutValueEffect
  cases dec6 c with
  | none => rfl
  | some v => dsimp only; split_ifs <;> rfl

/-- No command touches the accesses still to come. -/
theorem exec_pending {i : Instr} (h : exec i s = .next t) : t.pending = s.pending := by
  cases i with
  | nop => exact runEffect_pending h rfl
  | rst => cases h; rfl
  | b64eInit => exact runEffect_pending h rfl
  | b64ePut d => exact runEffect_pending h (encPutEffect_pending d s)
  | b64eEnd => exact runEffect_pending h (encEndEffect_pending s)
  | b64dInit => exact runEffect_pending h rfl
  | b64dPut c => exact runEffect_pending h (decPutEffect_pending c s)
  | b64dEnd => exact runEffect_pending h rfl
  | keyClr => exact runEffect_pending h rfl
  | keyPut k => exact attempt_pending h fun ht => by cases ht; rfl
  | brdInit => exact runEffect_pending h rfl
  | brdEnc m => exact braidData_pending h
  | brdDec c => exact braidData_pending h
  | brdOfs => exact attempt_pending h fun ht => by obtain ⟨_, ht⟩ := withKeyByte_next ht; cases ht; rfl

theorem runEffect_of_faulted {eff : Effect} (h : s.err = true) : runEffect eff s = .next s := attempt_of_faulted h

/-- Every command but `RST` is ignored while ERR = 1 (R206). -/
theorem exec_of_faulted {i : Instr} (hi : i ≠ .rst) (h : s.err = true) : exec i s = .next s := by
  cases i with
  | rst => exact absurd rfl hi
  | keyPut _ | brdEnc _ | brdDec _ | brdOfs => exact attempt_of_faulted h
  | _ => exact runEffect_of_faulted h

/-- The command runs from one state to the other without a fault. -/
def Completes (i : Instr) (s t : State) : Prop := s.err = false ∧ exec i s = .next t ∧ t.err = false

/-- A command that ends with ERR = 0 began with ERR = 0, unless it is `RST`. -/
theorem completes_of_exec {i : Instr} (hi : i ≠ .rst) (h : exec i s = .next t) (ht : t.err = false) : Completes i s t := by
  refine ⟨?_, h, ht⟩
  cases hs : s.err with
  | false => rfl
  | true => rw [exec_of_faulted hi hs] at h; cases h; exact hs.symm.trans ht

/-- Where no fault is raised the checks of R200 have all passed. -/
theorem attempt_completes {own : Option ErrCode} {e : Nat} {body : Result} (hs : s.err = false)
    (h : attempt own e body s = .next t) (ht : t.err = false) : own = none ∧ e ≤ s.free ∧ body = .next t := by
  rcases attempt_next h with ⟨he, -⟩ | ⟨-, ⟨c, -, rfl⟩ | ⟨-, -, rfl⟩ | hb⟩
  · simp [hs] at he
  · cases ht
  · cases ht
  · exact hb

theorem Completes.unread_keyClr (h : Completes .keyClr s t) : t.unread = { s.unread with key := [], kidx := 0 } := by
  obtain ⟨hs, h, -⟩ := h
  cases (runEffect_of_silent hs).symm.trans h
  rfl

theorem Completes.unread_brdInit (h : Completes .brdInit s t) : t.unread = { s.unread with kidx := 0 } := by
  obtain ⟨hs, h, -⟩ := h
  cases (runEffect_of_silent hs).symm.trans h
  rfl

theorem Completes.unread_keyPut {k : Byte} (h : Completes (.keyPut k) s t) :
    t.unread = { s.unread with key := s.unread.key ++ [k], kidx := 0 } := by
  obtain ⟨hs, h, ht⟩ := h
  obtain ⟨-, -, hb⟩ := attempt_completes hs h ht
  cases hb
  rfl

/-- A data command of the cipher that meets no fault (R174, R175): the byte made from the offset is delivered, the key index
advances and the key stays. -/
theorem braidData_completes {f : Offset → Byte} (hs : s.err = false) (h : braidData f s = .next t) (ht : t.err = false) :
    ∃ hk : s.kidx < s.key.length,
      t.delivered = s.delivered ++ [f (offset s.key[s.kidx] s.keylen)] ∧ t.kidx = nextKidx s ∧ t.key = s.key := by
  obtain ⟨-, -, hb⟩ := attempt_completes hs h ht
  obtain ⟨hk, hb⟩ := withKeyByte_next hb
  cases hb
  exact ⟨hk, delivered_emit .., rfl, rfl⟩

theorem Completes.ofs_brdOfs (h : Completes .brdOfs s t) :
    ∃ hk : s.kidx < s.key.length, t.ofs = (offset s.key[s.kidx] s.keylen).sext8 := by
  obtain ⟨hs, h, ht⟩ := h
  obtain ⟨-, -, hb⟩ := attempt_completes hs h ht
  obtain ⟨hk, hb⟩ := withKeyByte_next hb
  cases hb
  exact ⟨hk, rfl⟩

end Completes

/-! ### Sequences of commands with reads between them -/

/-- The commands run one after the other without a fault; between them only the host's side may change. -/
def Performs : List Instr → State → State → Prop
  | [], s, t     => t.unread = s.unread
  | i :: l, s, t => ∃ u v, u.unread = s.unread ∧ Completes i u v ∧ Performs l v t

section Performs

variable {s t u : State} {l : List Instr}

/-- Where a sequence starts matters up to the host's side only. -/
theorem Performs.of_unread_eq (h : Performs l u t) (hu : u.unread = s.unread) : Performs l s t := by
  cases l with
  | nil => exact h.trans hu
  | cons i l =>
    obtain ⟨a, b, ha, hb⟩ := h
    exact ⟨a, b, ha.trans hu, hb⟩

theorem Performs.of_append {l₂ : List Instr} (h : Performs (l ++ l₂) s t) : ∃ u, Performs l s u ∧ Performs l₂ u t := by
  induction l generalizing s with
  | nil => exact ⟨s, rfl, h⟩
  | cons i l ih =>
    obtain ⟨a, b, ha, hb, hl⟩ := h
    obtain ⟨u, hu, hl₂⟩ := ih hl
    exact ⟨u, ⟨a, b, ha, hb, hu⟩, hl₂⟩

/-- A plain access runs the word it writes to CMD, or changes the host's side only. -/
theorem access_plain_next {a : HostAccess} (ha : a.isPlain = true) (h : access a s = .next t) :
    (∃ v, a.cmdWord = some v ∧ runWord v s = .next t) ∨
      a.cmdWord = none ∧ t.pending = s.pending ∧ t.unread = s.unread := by
  cases a with
  | write r v =>
    rcases hostWrite_next h with ⟨rfl, hv⟩ | ⟨hr, -, rfl⟩
    · exact .inl ⟨v, rfl, hv⟩
    · exact .inr ⟨if_neg (by omega), rfl, rfl⟩
  | read r =>
    obtain ⟨g, -, rfl⟩ := hostRead_next h
    exact .inr ⟨rfl, by simp, unread_read g s⟩
  | drain => cases ha
  | hardwareReset => cases ha

/-- The first access of a list that carries commands writes the first of them to CMD, or writes no word there. -/
theorem carries_cons {a : HostAccess} {as : List HostAccess} (h : Carries (a :: as) l) :
    a.isPlain = true ∧
      ((a.cmdWord = none ∧ Carries as l) ∨ ∃ i l', l = i :: l' ∧ a.cmdWord = some (encode i) ∧ Carries as l') := by
  obtain ⟨hp, hw⟩ := h
  rw [List.all_cons, Bool.and_eq_true] at hp
  refine ⟨hp.1, ?_⟩
  cases ha : a.cmdWord with
  | none => rw [cmdWords, List.filterMap_cons_none ha] at hw; exact .inl ⟨rfl, hp.2, hw⟩
  | some v =>
    rw [cmdWords, List.filterMap_cons_some ha] at hw
    cases l with
    | nil => cases hw
    | cons i l' =>
      rw [List.map_cons, List.cons.injEq] at hw
      exact .inr ⟨i, l', rfl, congrArg some hw.1, hp.2, hw.2⟩

/-- A run of plain accesses that ends with ERR = 0 has performed the commands it carries, in order and without a fault, and has
no access left. -/
theorem run_performs {as : List HostAccess} (hc : Carries as l) (hr : .rst ∉ l) (hp : s.pending = as)
    (h : Host.Core.run core as.length s = .next t) (ht : t.err = false) :
    s.err = false ∧ Performs l s t ∧ t.pending = [] := by
  induction as generalizing l s with
  | nil =>
    cases h
    cases l with
    | nil => exact ⟨ht, rfl, hp⟩
    | cons i l => cases hc.2
  | cons a as ih =>
    obtain ⟨u, hu, h⟩ := run_next h
    rw [step_of_pending hp] at hu
    obtain ⟨ha, ⟨hn, hc⟩ | ⟨i, l, rfl, hi, hc⟩⟩ := carries_cons hc
    · rcases access_plain_next ha hu with ⟨v, hv, -⟩ | ⟨-, hpu, hun⟩
      · cases hn.symm.trans hv
      · obtain ⟨hue, hperf, hpend⟩ := ih hc hr hpu h
        exact ⟨(err_eq_of_unread_eq hun).symm.trans hue, hperf.of_unread_eq hun, hpend⟩
    · rcases access_plain_next ha hu with ⟨v, hv, hrun⟩ | ⟨hn, -⟩
      · cases hi.symm.trans hv
        rw [runWord, decode_encode] at hrun
        obtain ⟨hri, hrl⟩ := not_or.mp (List.mem_cons.not.mp hr)
        obtain ⟨hue, hperf, hpend⟩ := ih hc hrl (exec_pending hrun) h
        have hdone := completes_of_exec (Ne.symm hri) hrun hue
        exact ⟨hdone.1, ⟨{ s with pending := as }, u, rfl, hdone, hperf⟩, hpend⟩
      · cases hi.symm.trans hn

end Performs

/-! ### Loading a key, and the cipher's data commands -/

section Braid

variable {s t : State} {k : List Byte}

/-- `KEY.PUT` of each byte appends the bytes; KIDX, 0 before, stays 0 (R162). -/
theorem Performs.unread_keyPuts (hs : s.kidx = 0) (h : Performs (k.map .keyPut) s t) :
    t.unread = { s.unread with key := s.key ++ k } := by
  induction k generalizing s with
  | nil => rw [List.append_nil]; exact h
  | cons b k ih =>
    obtain ⟨u, v, hu, hv, h⟩ := h
    have hvs : v.unread = { s.unread with key := s.key ++ [b], kidx := 0 } := by rw [hv.unread_keyPut, hu]; rfl
    have hkey : v.key = s.key ++ [b] := (congrArg State.key hvs :)
    have hidx : v.kidx = 0 := (congrArg State.kidx hvs :)
    rw [ih hidx h, hvs, hkey, List.append_assoc, ← hs]
    rfl

/-- `KEY.LOAD k` leaves the key k with KIDX = 0 and changes no other element of the unit (R99). -/
theorem Performs.unread_keyLoad (h : Performs (Pseudo.keyLoad k).expand s t) :
    t.unread = { s.unread with key := k, kidx := 0 } := by
  obtain ⟨a, h, c, d, hc, hd, ht⟩ := h.of_append
  obtain ⟨b, ⟨e, b', he, hb', hb⟩, ha⟩ := h.of_append
  have hclr : b.unread = { s.unread with key := [], kidx := 0 } := by rw [hb, hb'.unread_keyClr, he]
  have hput : a.unread = { s.unread with key := k, kidx := 0 } := by
    have hkey : b.key = [] := (congrArg State.key hclr :)
    have hidx : b.kidx = 0 := (congrArg State.kidx hclr :)
    rw [ha.unread_keyPuts hidx, hclr, hkey]
    rfl
  rw [ht, hd.unread_brdInit, hc, hput]

/-- The key index after n data commands under a key of L bytes is n mod L, and so is the next one (R27, R174). -/
theorem nextKidx_eq_mod {n : Nat} (h : s.kidx = n % s.keylen) (hl : 0 < s.keylen) : nextKidx s = (n + 1) % s.keylen := by
  have hlt : n % s.keylen < s.keylen := Nat.mod_lt n hl
  rw [nextKidx, h, ← Nat.mod_add_mod]
  split_ifs with he
  · rw [he, Nat.mod_self]
  · exact (Nat.mod_eq_of_lt (by omega)).symm

/-- The offset of the position after n data commands is the one of the key byte at KIDX (R174, R179). -/
theorem offset_at_kidx (hk : k ≠ []) (hs : s.key = k) {n : Nat} (hn : s.kidx = n % k.length) (hlt : s.kidx < s.key.length) :
    offset s.key[s.kidx] s.keylen = braidOffset k hk (n + 1) := by
  subst hs
  simp only [braidOffset, hn, Nat.add_sub_cancel, State.keylen]

/-- Data commands of the cipher from the position after n of them: each byte is combined with the offset of its position, and
KIDX counts on modulo L (R27, R179). -/
theorem Performs.braid {c : Byte → Instr} {f : Byte → Offset → Byte} (hc : ∀ b s, exec (c b) s = braidData (f b) s)
    (hk : k ≠ []) {x : List Byte} {n : Nat} (hs : s.key = k) (hn : s.kidx = n % k.length) (h : Performs (x.map c) s t) :
    t.delivered = s.delivered ++ braidFrom f k hk (n + 1) x ∧ t.kidx = (n + x.length) % k.length ∧ t.key = k := by
  induction x generalizing s n with
  | nil =>
    refine ⟨?_, ?_, ?_⟩
    · rw [braidFrom, List.append_nil]; exact delivered_eq_of_unread_eq h
    · exact (kidx_eq_of_unread_eq h).trans hn
    · exact (key_eq_of_unread_eq h).trans hs
  | cons b x ih =>
    obtain ⟨u, v, hu, ⟨hue, huv, hve⟩, h⟩ := h
    have huk : u.key = k := (key_eq_of_unread_eq hu).trans hs
    have hun : u.kidx = n % k.length := (kidx_eq_of_unread_eq hu).trans hn
    obtain ⟨hlt, hd, hv, hvk⟩ := braidData_completes hue ((hc b u).symm.trans huv) hve
    have hlen : u.keylen = k.length := congrArg List.length huk
    rw [nextKidx_eq_mod (hlen.symm ▸ hun) (Nat.zero_lt_of_lt hlt), hlen] at hv
    rw [offset_at_kidx hk huk hun, delivered_eq_of_unread_eq hu] at hd
    obtain ⟨ht, hti, htk⟩ := ih (hvk.trans huk) hv h
    refine ⟨?_, ?_, htk⟩
    · rw [ht, hd, braidFrom, List.append_assoc, List.singleton_append]
    · rw [hti, List.length_cons, Nat.add_assoc, Nat.add_comm 1]

/-- Loading k and then running the cipher over x delivers the text made from position 1 on (R14). -/
theorem Performs.keyLoad_braid {c : Byte → Instr} {f : Byte → Offset → Byte} (hc : ∀ b s, exec (c b) s = braidData (f b) s)
    (hk : k ≠ []) {x : List Byte} (h : Performs (keyLoadCommands k ++ x.map c) s t) :
    t.delivered = s.delivered ++ braidFrom f k hk 1 x ∧ t.kidx = x.length % k.length ∧ t.key = k := by
  obtain ⟨u, hload, hx⟩ := h.of_append
  have hu := hload.unread_keyLoad
  have hd : u.delivered = s.delivered := (congrArg State.outq hu :)
  have hi : u.kidx = 0 % k.length := (congrArg State.kidx hu :).trans (Nat.zero_mod _).symm
  have hkey : u.key = k := (congrArg State.key hu :)
  have hbraid := hx.braid hc hk hkey hi
  rwa [hd, Nat.zero_add, Nat.zero_add] at hbraid

/-- A run that loads k and writes the data commands of x, with reads between them, delivers the text made from position 1 on. -/
theorem run_keyLoad_braid {c : Byte → Instr} {f : Byte → Offset → Byte} (hc : ∀ b s, exec (c b) s = braidData (f b) s)
    (hrst : ∀ b, c b ≠ .rst) (hk : k ≠ []) {x : List Byte} {as : List HostAccess} (hp : s.pending = as)
    (hl : Carries as (keyLoadCommands k ++ x.map c)) (h : Host.Core.run core as.length s = .next t) (ht : t.err = false) :
    t.delivered = s.delivered ++ braidFrom f k hk 1 x ∧ t.key = k := by
  have hno : .rst ∉ keyLoadCommands k ++ x.map c := by simp [keyLoadCommands, hrst]
  obtain ⟨-, hperf, -⟩ := run_performs hl hno hp h ht
  obtain ⟨hd, -, hkey⟩ := hperf.keyLoad_braid hc hk
  exact ⟨hd, hkey⟩

end Braid

/-- Settles O58: the run performs the commands it carries, `KEY.LOAD k` and the cipher's data commands from position 1. -/
theorem encryptAndDecryptRuns : Obligations.EncryptAndDecryptRuns := by
  intro s t l x k hk _ hp hrun ht
  exact ⟨fun hc => run_keyLoad_braid (c := .brdEnc) (f := addOffset) (fun _ _ => rfl) nofun hk hp hc hrun ht,
    fun hc => run_keyLoad_braid (c := .brdDec) (f := subOffset) (fun _ _ => rfl) nofun hk hp hc hrun ht⟩

/-- Settles O59: after p - 1 data commands KIDX is (p - 1) mod L, and `BRD.OFS` reads the key byte there. -/
theorem offsetOfAPositionIsLeftInOfs : Obligations.OffsetOfAPositionIsLeftInOfs := by
  intro s t l k hk p hp _ hpend hc hrun ht
  obtain ⟨-, hperf, -⟩ := run_performs hc (by simp [Pseudo.expand, keyLoadCommands]) hpend hrun ht
  rw [← List.map_replicate (f := Instr.brdEnc)] at hperf
  obtain ⟨u, hdata, v, w, hv, hofs, hw⟩ := hperf.of_append
  obtain ⟨-, hi, hkey⟩ := Performs.keyLoad_braid (c := .brdEnc) (f := addOffset) (fun _ _ => rfl) hk hdata
  rw [List.length_replicate] at hi
  obtain ⟨hlt, hofs⟩ := hofs.ofs_brdOfs
  rw [offset_at_kidx hk ((key_eq_of_unread_eq hv).trans hkey) ((kidx_eq_of_unread_eq hv).trans hi),
    Nat.sub_add_cancel hp] at hofs
  have hend : t.ofs = (braidOffset k hk p).sext8 := (congrArg State.ofs hw :).trans hofs
  exact ⟨hend, hend⟩

end Sys2Proof.Machine
end

section
/-! PROOFS. What every step can do, and what it keeps (10_state.md R29 to R33): the invariant of the reachable states, the
parameters, the fault until a reset, the sequence of bytes delivered. -/

namespace Sys2Proof

/-- Packing the fields of a word gives the word back (R90). -/
theorem pack_fieldsOf (v : Word) : (fieldsOf v).pack = v := by
  refine BitVec.eq_of_getLsbD_eq fun i hi => ?_
  simp only [fieldsOf, Fields.pack, BitVec.getLsbD_append, BitVec.getLsbD_extractLsb']
  split_ifs with h8 h4
  · simp [h8]
  · simp [h4, Nat.add_sub_cancel' (not_lt.mp h8)]
  · have hlo : 8 + 4 ≤ i := by omega
    have hhi : i - (8 + 4) < 20 := by omega
    rw [Nat.sub_sub, decide_eq_true hhi, Bool.true_and, Nat.add_sub_cancel' hlo]

/-- Without an operand the command is the one of the opcode, and DATA is zero (R94). -/
theorem withoutOperand_legal {data : Byte} {i j : Instr} (h : withoutOperand data j = .legal i) : j = i ∧ data = 0 := by
  unfold withoutOperand at h
  split_ifs at h with hd
  cases h
  exact ⟨rfl, hd⟩

/-- The command found by the opcode map has the opcode and DATA it was found by (R93, R94). -/
theorem fields_of_decodeOp {op : BitVec 4} {data : Byte} {i : Instr} (h : decodeOp op data = .legal i) :
    i.fields = { rsv := 0, op := op, data := data } := by
  have hop : op = BitVec.ofNat 4 op.toNat := by simp
  unfold decodeOp at h
  split at h
  case h_15 => cases h
  all_goals rename_i hn; rw [hn] at hop; subst hop
  case h_4 | h_7 | h_10 | h_12 | h_13 => cases h; rfl
  all_goals obtain ⟨rfl, rfl⟩ := withoutOperand_legal h; rfl

/-- A word that decodes to a command is the word the command assembles to (R94, R97). -/
theorem encode_of_decode {v : Word} {i : Instr} (h : decode v = .legal i) : encode i = v := by
  unfold decode at h
  dsimp only at h
  split_ifs at h with hrsv
  rw [encode, fields_of_decodeOp h, ← hrsv]
  exact pack_fieldsOf v

end Sys2Proof

namespace Sys2Proof.Machine

open Sys2Proof

/-! ### The invariant, one element of the state at a time (R32) -/

/-- The reset state of a unit satisfies the invariant (R231). -/
theorem inv_initial {c : Config} (h : c.WellFormed) : (State.initial c).Inv :=
  ⟨h, ⟨fun _ => ⟨rfl, rfl⟩, fun _ => rfl⟩, ⟨fun _ => rfl, fun _ => rfl, fun _ => rfl⟩, ⟨fun _ => rfl, id, Nat.zero_le _⟩,
    Nat.zero_le _, iff_of_true rfl rfl, List.mem_cons_self⟩

theorem sext8_mem (o : Offset) : o.sext8 ∈ [0x00#8, 0x02#8, 0x03#8, 0xFE#8, 0xFF#8] := by
  cases o <;> decide

section Inv

variable {s : State}

theorem State.Inv.wellFormed : s.Inv → s.cfg.WellFormed := fun ⟨hcfg, _⟩ => hcfg

theorem State.Inv.encClean : s.Inv → s.EncClean := fun ⟨_, ha, _⟩ => ha

theorem State.Inv.decClean : s.Inv → s.DecClean := fun ⟨_, _, hb, _⟩ => hb

theorem State.Inv.keyIndexed : s.Inv → s.KeyIndexed := fun ⟨_, _, _, hc, _⟩ => hc

theorem State.Inv.queueBounded : s.Inv → s.QueueBounded := fun ⟨_, _, _, _, hd, _⟩ => hd

/-- The invariant reads the encoder's group buffer in part (a) only. -/
theorem State.Inv.setEnc (h : s.Inv) {n : Fin 3} {b0 b1 : Byte}
    (ha : State.EncClean { s with encN := n, encB0 := b0, encB1 := b1 }) :
    State.Inv { s with encN := n, encB0 := b0, encB1 := b1 } := by
  obtain ⟨hcfg, -, hdec, hkey, hq, hf, ho⟩ := h
  exact ⟨hcfg, ha, hdec, hkey, hq, hf, ho⟩

/-- The invariant reads the decoder's group buffer in part (b) only, and DCNT nowhere. -/
theorem State.Inv.setDec (h : s.Inv) {n : Fin 4} {s0 s1 s2 : Sextet} {d : Word}
    (hb : State.DecClean { s with decN := n, decS0 := s0, decS1 := s1, decS2 := s2, dcnt := d }) :
    State.Inv { s with decN := n, decS0 := s0, decS1 := s1, decS2 := s2, dcnt := d } := by
  obtain ⟨hcfg, henc, -, hkey, hq, hf, ho⟩ := h
  exact ⟨hcfg, henc, hb, hkey, hq, hf, ho⟩

/-- The invariant reads the key and KIDX in part (c) only. -/
theorem State.Inv.setKey (h : s.Inv) {k : List Byte} {n : Nat} (hc : State.KeyIndexed { s with key := k, kidx := n }) :
    State.Inv { s with key := k, kidx := n } := by
  obtain ⟨hcfg, henc, hdec, -, hq, hf, ho⟩ := h
  exact ⟨hcfg, henc, hdec, hc, hq, hf, ho⟩

/-- Recording an offset keeps part (g). -/
theorem State.Inv.setOfs (h : s.Inv) (o : Offset) : State.Inv { s with ofs := o.sext8 } := by
  obtain ⟨hcfg, henc, hdec, hkey, hq, hf, -⟩ := h
  exact ⟨hcfg, henc, hdec, hkey, hq, hf, sext8_mem o⟩

/-- Any queue within the capacity keeps part (d). -/
theorem State.Inv.setOutq (h : s.Inv) {q : List Byte} (hd : q.length ≤ s.cfg.outDepth) : State.Inv { s with outq := q } := by
  obtain ⟨hcfg, henc, hdec, hkey, -, hf, ho⟩ := h
  exact ⟨hcfg, henc, hdec, hkey, hd, hf, ho⟩

/-- Fault entry keeps part (f): the code it records is not 0 (R205). -/
theorem State.Inv.raiseFault (h : s.Inv) {c : ErrCode} (hc : c ≠ .none) : (s.raiseFault c).Inv := by
  obtain ⟨hcfg, henc, hdec, hkey, hq, -, ho⟩ := h
  exact ⟨hcfg, henc, hdec, hkey, hq, by simp [State.FlagsAgree, hc], ho⟩

/-- A reset keeps the parameters and gives every other element its value in the reset state (R191, R231). -/
theorem State.Inv.hardwareReset (h : s.Inv) : s.hardwareReset.Inv := inv_initial h.wellFormed

theorem State.Inv.softReset (h : s.Inv) : s.softReset.Inv := inv_initial h.wellFormed

/-- A key index of 0 is right for every key that fits (R27). -/
theorem State.Inv.setKey_zero (h : s.Inv) {k : List Byte} (hk : k.length ≤ s.cfg.keyMax) :
    State.Inv { s with key := k, kidx := 0 } :=
  h.setKey ⟨fun _ => rfl, id, hk⟩

/-- Bytes that fit the free places keep part (d) of the invariant. -/
theorem State.Inv.emit (h : s.Inv) {bs : List Byte} (hroom : bs.length ≤ s.free) : (s.emit bs).Inv := by
  refine h.setOutq ?_
  have hq : s.outq.length ≤ s.cfg.outDepth := h.queueBounded
  rw [State.free] at hroom
  rw [List.length_append]
  omega

/-- A read keeps the invariant: it may shorten OUTQ and does nothing else to the unit (R42). -/
theorem State.Inv.read (h : s.Inv) (g : HostReg) : ((readEffect g s).giveBack g (readValue g s)).Inv := by
  cases g with
  | out => exact h.setOutq (s.outq.length_tail ▸ (Nat.sub_le _ _).trans h.queueBounded)
  | _ => exact h

end Inv

/-! ### What a command can do (R33, R200) -/

/-- The parameters, OUTQ, the flags and the host's side: what the pseudocode of a command changes by `emit` and `raise` only
(R10), `RST` apart. -/
def State.shared (s : State) := (s.cfg, s.outq, s.err, s.errcode, s.pending, s.returned)

/-- The effect of a command that completes: it emits as many bytes as R33 says, leaves the shared elements to `emit`, and keeps
the invariant. -/
structure LawfulEffect (i : Instr) (s : State) (eff : Effect) : Prop where
  shared : eff.after.shared = s.shared
  count  : eff.out.length = emissionCount i s
  inv    : s.Inv → eff.after.Inv

/-- What executing a command can do (R200, R206): it is ignored, resets the unit, faults, or has its whole effect. -/
inductive ExecOutcome (i : Instr) (s : State) : State → Prop
  | ignored (hs : s.err = true) : ExecOutcome i s s
  | reset (hi : i = .rst) : ExecOutcome i s s.softReset
  | fault {c : ErrCode} (hc : c ≠ .none) : ExecOutcome i s (s.raiseFault c)
  | completes {eff : Effect} (hs : s.err = false) (he : LawfulEffect i s eff) (hroom : eff.out.length ≤ s.free) :
      ExecOutcome i s (eff.after.emit eff.out)

section Outcome

variable {i : Instr} {s t : State}

theorem State.emit_nil (s : State) : s.emit [] = s := by simp [State.emit]

theorem shared_eq_iff : s.shared = t.shared ↔
    s.cfg = t.cfg ∧ s.outq = t.outq ∧ s.err = t.err ∧ s.errcode = t.errcode ∧ s.pending = t.pending ∧
      s.returned = t.returned := by
  simp only [State.shared, Prod.mk.injEq]

/-! The effects of the encoder's commands (R121 to R123). -/

theorem clearEnc_inv (h : s.Inv) : s.clearEnc.Inv := h.setEnc ⟨fun _ => ⟨rfl, rfl⟩, fun _ => rfl⟩

theorem encN_eq_two {n : Fin 3} (h0 : n ≠ 0) (h1 : n ≠ 1) : n = 2 := by omega

theorem encPutEffect_lawful (d : Byte) (s : State) : LawfulEffect (.b64ePut d) s (encPutEffect d s) := by
  unfold encPutEffect
  split_ifs with h0 h1
  · exact ⟨rfl, by simp [emissionCount, h0], fun hs => hs.setEnc ⟨nofun, fun _ => (hs.encClean.1 h0).2⟩⟩
  · exact ⟨rfl, by simp [emissionCount, h1], fun hs => hs.setEnc ⟨nofun, nofun⟩⟩
  · exact ⟨rfl, by simp [emissionCount, encN_eq_two h0 h1], clearEnc_inv⟩

theorem encEndEffect_lawful (s : State) : LawfulEffect .b64eEnd s (encEndEffect s) := by
  unfold encEndEffect
  dsimp only
  split_ifs with h1 h2
  · exact ⟨rfl, by simp [emissionCount, h1], clearEnc_inv⟩
  · exact ⟨rfl, by simp [emissionCount, h2], clearEnc_inv⟩
  · exact ⟨rfl, by simp [emissionCount, h1, h2], clearEnc_inv⟩

/-! The effects of the decoder's commands (R141 to R143). -/

theorem clearDec_inv (d : Word) (h : s.Inv) : State.Inv { s.clearDec with dcnt := d } :=
  h.setDec ⟨fun _ => rfl, fun _ => rfl, fun _ => rfl⟩

theorem decN_eq_three {n : Fin 4} (h0 : n ≠ 0) (h1 : n ≠ 1) (h2 : n ≠ 2) : n = 3 := by omega

/-- Filling slot 0, 1 or 2 leaves the slots after it as they are, so they stay zero (R32 (b)). -/
theorem decPutEffect_lawful (c : Byte) (s : State) : LawfulEffect (.b64dPut c) s (decPutEffect c s) := by
  unfold decPutEffect decPutValueEffect
  cases hc : dec6 c with
  | none => exact ⟨rfl, by simp [emissionCount, hc], id⟩
  | some v =>
    dsimp only
    split_ifs with h0 h1 h2
    · refine ⟨rfl, by simp [emissionCount, h0], fun hs => hs.setDec ?_⟩
      obtain ⟨-, hs1, hs2⟩ := hs.decClean
      exact ⟨nofun, fun _ => hs1 (by simp [h0]), fun _ => hs2 (by simp [h0])⟩
    · refine ⟨rfl, by simp [emissionCount, h1], fun hs => hs.setDec ?_⟩
      obtain ⟨-, -, hs2⟩ := hs.decClean
      exact ⟨nofun, nofun, fun _ => hs2 (by simp [h1])⟩
    · exact ⟨rfl, by simp [emissionCount, h2], fun hs => hs.setDec ⟨nofun, nofun, nofun⟩⟩
    · exact ⟨rfl, by simp [emissionCount, hc, decN_eq_three h0 h1 h2], clearDec_inv _⟩

theorem flushBytes_length (s : State) : (flushBytes s).length = emissionCount .b64dEnd s := by
  simp only [flushBytes, emissionCount]
  split_ifs with h0 h1 h12 h2 <;> simp_all

/-! The effects of the key and the cipher's commands (R161, R162, R173 to R176). -/

theorem keyPut_lawful (k : Byte) (h : keyStoreCheck s = none) :
    LawfulEffect (.keyPut k) s { out := [], after := { s.appendKey k with kidx := 0 } } := by
  refine ⟨rfl, rfl, fun hs => hs.setKey_zero ?_⟩
  obtain ⟨-, -, hmax⟩ := hs.keyIndexed
  have hne : s.keylen ≠ s.cfg.keyMax := fun he => by simp [keyStoreCheck, he] at h
  have hlen : s.keylen = s.key.length := rfl
  rw [State.appendKey_key, List.length_append, List.length_singleton]
  omega

theorem nextKidx_lt (hk : s.kidx < s.key.length) : nextKidx s < s.key.length := by
  unfold nextKidx State.keylen
  split_ifs <;> omega

theorem braidData_lawful (hi : emissionCount i s = 1) (hk : s.kidx < s.key.length) (o : Offset) (b : Byte) :
    LawfulEffect i s { out := [b], after := { s with ofs := o.sext8, kidx := nextKidx s } } := by
  refine ⟨rfl, hi.symm, fun h => (h.setOfs o).setKey ?_⟩
  obtain ⟨-, -, hmax⟩ := h.keyIndexed
  have hlt : nextKidx s < s.key.length := nextKidx_lt hk
  exact ⟨fun h0 => absurd h0 (Nat.ne_zero_of_lt hlt), fun _ => hlt, hmax⟩

theorem brdOfs_lawful (o : Offset) : LawfulEffect .brdOfs s { out := [], after := { s with ofs := o.sext8 } } :=
  ⟨rfl, rfl, fun h => h.setOfs o⟩

/-! The outcomes of R200, command by command. -/

/-- A command has the outcomes of R200 where its own fault has a code and its body is a lawful effect. -/
theorem attempt_outcome {own : Option ErrCode} {e : Nat} {body : Result} (h : attempt own e body s = .next t)
    (hown : own ≠ some .none)
    (hb : own = none → body = .next t → ∃ eff, LawfulEffect i s eff ∧ eff.out.length = e ∧ t = eff.after.emit eff.out) :
    ExecOutcome i s t := by
  rcases attempt_next h with ⟨hs, rfl⟩ | ⟨hs, ⟨c, rfl, rfl⟩ | ⟨-, -, rfl⟩ | ⟨ho, he, ht⟩⟩
  · exact .ignored hs
  · exact .fault fun hc => hown (congrArg some hc)
  · exact .fault nofun
  · obtain ⟨eff, hl, rfl, rfl⟩ := hb ho ht
    exact .completes hs hl he

theorem runEffect_outcome {eff : Effect} (h : runEffect eff s = .next t) (he : LawfulEffect i s eff) : ExecOutcome i s t :=
  attempt_outcome h nofun fun _ ht => by cases ht; exact ⟨eff, he, rfl, rfl⟩

theorem needsKey_ne_some_none : needsKey s ≠ some .none := by
  unfold needsKey
  split_ifs <;> nofun

theorem keyStoreCheck_ne_some_none : keyStoreCheck s ≠ some .none := by
  unfold keyStoreCheck
  split_ifs <;> nofun

theorem braidData_outcome {f : Offset → Byte} (h : braidData f s = .next t) (hi : emissionCount i s = 1) :
    ExecOutcome i s t := by
  refine attempt_outcome h needsKey_ne_some_none fun _ ht => ?_
  obtain ⟨hk, ht⟩ := withKeyByte_next ht
  cases ht
  exact ⟨_, braidData_lawful hi hk _ _, rfl, rfl⟩

theorem execBrdOfs_outcome (h : execBrdOfs s = .next t) : ExecOutcome .brdOfs s t := by
  refine attempt_outcome h needsKey_ne_some_none fun _ ht => ?_
  obtain ⟨hk, ht⟩ := withKeyByte_next ht
  cases ht
  exact ⟨_, brdOfs_lawful _, rfl, (State.emit_nil _).symm⟩

theorem execKeyPut_outcome {k : Byte} (h : execKeyPut k s = .next t) : ExecOutcome (.keyPut k) s t := by
  refine attempt_outcome h keyStoreCheck_ne_some_none fun ho ht => ?_
  cases ht
  exact ⟨_, keyPut_lawful k ho, rfl, (State.emit_nil _).symm⟩

/-- Every command that answers a state has one of the outcomes of R200. -/
theorem exec_outcome (h : exec i s = .next t) : ExecOutcome i s t := by
  cases i with
  | nop => exact runEffect_outcome h ⟨rfl, rfl, id⟩
  | rst => cases h; exact .reset rfl
  | b64eInit => exact runEffect_outcome h ⟨rfl, rfl, clearEnc_inv⟩
  | b64ePut d => exact runEffect_outcome h (encPutEffect_lawful d s)
  | b64eEnd => exact runEffect_outcome h (encEndEffect_lawful s)
  | b64dInit => exact runEffect_outcome h ⟨rfl, rfl, clearDec_inv 0⟩
  | b64dPut c => exact runEffect_outcome h (decPutEffect_lawful c s)
  | b64dEnd => exact runEffect_outcome h ⟨rfl, flushBytes_length s, clearDec_inv _⟩
  | keyClr => exact runEffect_outcome h ⟨rfl, rfl, fun hs => hs.setKey_zero (Nat.zero_le _)⟩
  | keyPut k => exact execKeyPut_outcome h
  | brdInit => exact runEffect_outcome h ⟨rfl, rfl, fun hs => hs.setKey_zero hs.keyIndexed.2.2⟩
  | brdEnc m => exact braidData_outcome h rfl
  | brdDec c => exact braidData_outcome h rfl
  | brdOfs => exact execBrdOfs_outcome h

/-- The largest entry of the emission table is 4 (R33). -/
theorem emissionCount_le_four (i : Instr) (s : State) : emissionCount i s ≤ 4 := by
  cases i with
  | b64ePut | b64eEnd | b64dPut | b64dEnd => dsimp only [emissionCount]; split_ifs <;> decide
  | _ => simp [emissionCount]

end Outcome

/-! ### What a command keeps -/

section Exec

variable {i : Instr} {s t : State}

theorem ExecOutcome.inv (ho : ExecOutcome i s t) (h : s.Inv) : t.Inv := by
  cases ho with
  | ignored => exact h
  | reset => exact h.softReset
  | fault hc => exact h.raiseFault hc
  | @completes eff _ he hroom =>
    obtain ⟨hcfg, hq, -⟩ := shared_eq_iff.mp he.shared
    exact (he.inv h).emit (by rwa [State.free, hcfg, hq])

theorem ExecOutcome.cfg (ho : ExecOutcome i s t) : t.cfg = s.cfg := by
  cases ho with
  | ignored => rfl
  | reset => rfl
  | fault => rfl
  | completes _ he => exact (shared_eq_iff.mp he.shared).1

/-- A faulted unit stays faulted, unless the command is `RST` (R206). -/
theorem ExecOutcome.err (ho : ExecOutcome i s t) (hs : s.err = true) (ht : t.err = false) : i = .rst := by
  cases ho with
  | ignored => simp [hs] at ht
  | reset hi => exact hi
  | fault => cases ht
  | completes hs' => simp [hs] at hs'

/-- A command other than `RST` appends at most four bytes to what is delivered (R29, R33). -/
theorem ExecOutcome.delivered (ho : ExecOutcome i s t) (hi : i ≠ .rst) :
    ∃ bs : List Byte, t.delivered = s.delivered ++ bs ∧ bs.length ≤ 4 := by
  cases ho with
  | ignored => exact ⟨[], (List.append_nil _).symm, Nat.zero_le _⟩
  | reset hrst => exact absurd hrst hi
  | fault => exact ⟨[], (List.append_nil _).symm, Nat.zero_le _⟩
  | @completes eff _ he _ =>
    obtain ⟨-, hq, -, -, -, hr⟩ := shared_eq_iff.mp he.shared
    refine ⟨eff.out, ?_, he.count ▸ emissionCount_le_four i s⟩
    rw [delivered_emit, State.delivered, hq, hr, State.delivered]

end Exec

/-- Settles O35: a command that completes has a lawful effect, and that emits what the table says. -/
theorem emissionCountsAreTheTable : Obligations.EmissionCountsAreTheTable := by
  intro i s t hi hs h ht
  cases exec_outcome h with
  | ignored hs' => simp [hs] at hs'
  | reset hrst => exact absurd hrst hi
  | fault => cases ht
  | @completes eff _ he _ =>
    obtain ⟨-, hq, -⟩ := shared_eq_iff.mp he.shared
    exact ⟨eff.out, congrArg (· ++ eff.out) hq, he.count, he.count ▸ emissionCount_le_four i s⟩

/-! ### What an access and a step can do -/

/-- What an access can do: a write is ignored, faults or executes a command; a read and a `DRAIN` step read one register, and
`DRAIN` may leave itself first in line; a hardware reset resets (R41, R42, R98, R201, R230). -/
inductive AccessOutcome : HostAccess → State → State → Prop
  | ignored (r : Nat) (v : Word) (s : State) : AccessOutcome (.write r v) s s
  | illegal (v : Word) (s : State) : AccessOutcome (.write 0 v) s (s.raiseFault .illegal)
  | command {v : Word} {i : Instr} {s t : State} (hv : decode v = .legal i) (ho : ExecOutcome i s t) :
      AccessOutcome (.write 0 v) s t
  | read (r : Nat) (g : HostReg) (s : State) : AccessOutcome (.read r) s ((readEffect g s).giveBack g (readValue g s))
  | drain (p : List HostAccess) {s u : State} (hu : u = { s with pending := p }) :
      AccessOutcome .drain s ((readEffect .out u).giveBack .out (readValue .out u))
  | hardwareReset (s : State) : AccessOutcome .hardwareReset s s.hardwareReset

section Access

variable {a : HostAccess} {s t : State}

theorem hostWrite_outcome {r : Nat} {v : Word} (h : hostWrite r v s = .next t) : AccessOutcome (.write r v) s t := by
  rcases hostWrite_next h with ⟨rfl, h⟩ | ⟨-, -, rfl⟩
  · rcases runWord_next h with ⟨i, hv, h⟩ | ⟨_, -, ⟨-, rfl⟩ | ⟨-, rfl⟩⟩
    · exact .command hv (exec_outcome h)
    · exact .ignored ..
    · exact .illegal ..
  · exact .ignored ..

/-- A step of `DRAIN` is one read of OUT, with `DRAIN` first in line again or not (R98). -/
theorem drainRead_outcome (h : drainRead s = .next t) : AccessOutcome .drain s t := by
  unfold drainRead at h
  split at h
  · cases h; exact .drain s.pending rfl
  · cases h; exact .drain (.drain :: s.pending) rfl

theorem access_outcome (h : access a s = .next t) : AccessOutcome a s t := by
  cases a with
  | write r v => exact hostWrite_outcome h
  | read r => obtain ⟨g, -, rfl⟩ := hostRead_next h; exact .read ..
  | drain => exact drainRead_outcome h
  | hardwareReset => cases h; exact .hardwareReset _

/-- A step that performs a given access has the outcomes of that access. -/
theorem step_outcome_of_head (ha : s.pending.head? = some a) (h : step s = .next t) :
    ∃ rest, AccessOutcome a { s with pending := rest } t := by
  obtain ⟨rest, hp⟩ := List.head?_eq_some_iff.mp ha
  exact ⟨rest, access_outcome (step_of_pending hp ▸ h)⟩

/-- A step keeps the state, or has the outcomes of the first pending access. -/
theorem step_outcome (h : step s = .next t) :
    t = s ∨ ∃ a rest, s.pending.head? = some a ∧ AccessOutcome a { s with pending := rest } t := by
  rcases step_next h with ⟨-, rfl⟩ | ⟨a, rest, hp, h⟩
  · exact .inl rfl
  · exact .inr ⟨a, rest, by rw [hp]; rfl, access_outcome h⟩

theorem AccessOutcome.inv (ho : AccessOutcome a s t) (h : s.Inv) : t.Inv := by
  cases ho with
  | ignored => exact h
  | illegal => exact h.raiseFault nofun
  | command _ ho => exact ho.inv h
  | read _ g => exact h.read g
  | drain p hu => subst hu; exact State.Inv.read (s := { s with pending := p }) h .out
  | hardwareReset => exact h.hardwareReset

theorem AccessOutcome.cfg (ho : AccessOutcome a s t) : t.cfg = s.cfg := by
  cases ho with
  | ignored => rfl
  | illegal => rfl
  | command _ ho => exact ho.cfg
  | read => simp
  | drain _ hu => simp [hu]
  | hardwareReset => rfl

/-- The accesses that end a fault (R206, R230). -/
theorem AccessOutcome.err (ho : AccessOutcome a s t) (hs : s.err = true) (ht : t.err = false) :
    a = .write 0 0x00000100#32 ∨ a = .hardwareReset := by
  cases ho with
  | ignored => simp [hs] at ht
  | illegal => cases ht
  | command hv ho =>
    cases ho.err hs ht
    exact .inl (congrArg _ (encode_of_decode hv).symm)
  | read => simp [hs] at ht
  | drain _ hu => simp [hu, hs] at ht
  | hardwareReset => exact .inr rfl

theorem AccessOutcome.delivered_read {r : Nat} (ho : AccessOutcome (.read r) s t) : t.delivered = s.delivered := by
  cases ho with
  | read r g => exact Machine.delivered_read g s

theorem AccessOutcome.delivered_drain (ho : AccessOutcome .drain s t) : t.delivered = s.delivered := by
  cases ho with
  | drain p hu => rw [Machine.delivered_read, hu]; rfl

theorem AccessOutcome.delivered_write {r : Nat} {v : Word} (ho : AccessOutcome (.write r v) s t)
    (hv : v ≠ 0x00000100#32) : ∃ bs : List Byte, t.delivered = s.delivered ++ bs ∧ bs.length ≤ 4 := by
  cases ho with
  | ignored => exact ⟨[], (List.append_nil _).symm, Nat.zero_le _⟩
  | illegal => exact ⟨[], (List.append_nil _).symm, Nat.zero_le _⟩
  | command hd ho => exact ho.delivered fun hi => hv (hi ▸ encode_of_decode hd).symm

end Access

/-- Settles O39: each outcome of an access keeps the invariant, and no part of it reads the host's side. -/
theorem invariantKeptByEveryStep : Obligations.InvariantKeptByEveryStep := by
  intro s t hs h
  rcases step_outcome h with rfl | ⟨_, _, -, ho⟩
  · exact hs
  · exact ho.inv hs

/-- Settles O42, by the outcomes of an access. -/
theorem parametersNeverChange : Obligations.ParametersNeverChange := by
  intro s t h
  rcases step_outcome h with rfl | ⟨_, _, -, ho⟩
  · rfl
  · exact ho.cfg

/-- Settles O9: of the outcomes of an access only those of `RST` and of a hardware reset go from ERR = 1 to ERR = 0. -/
theorem onlyResetsClearTheFault : Obligations.OnlyResetsClearTheFault := by
  intro s t hs h ht
  rcases step_outcome h with rfl | ⟨a, _, ha, ho⟩
  · simp [hs] at ht
  · rw [ha]
    exact (ho.err hs ht).imp (congrArg some) (congrArg some)

/-- Settles O44: a read hands over what it takes from OUTQ, and a command only emits. -/
theorem outputIsFirstInFirstOut : Obligations.OutputIsFirstInFirstOut := by
  refine ⟨fun s t r ha h => ?_, fun s t ha h => ?_, fun s t r v ha hv h => ?_⟩
  · obtain ⟨_, ho⟩ := step_outcome_of_head ha h
    exact ho.delivered_read
  · obtain ⟨_, ho⟩ := step_outcome_of_head ha h
    exact ho.delivered_drain
  · obtain ⟨_, ho⟩ := step_outcome_of_head ha h
    exact ho.delivered_write hv

end Sys2Proof.Machine
end

section
/-! PROOFS. The values of the registers and single accesses (10_state.md R41 to R51). -/

namespace Sys2Proof.Machine

open Sys2Proof

/-! ### Register numbers (R40, R51) -/

section Registers

variable {s : State} {r : Nat} {rest : List HostAccess}

theorem ofNumber_of_gt (h : 7 < r) : HostReg.ofNumber r = none := by
  unfold HostReg.ofNumber
  split
  case h_9 => rfl
  all_goals omega

/-- The step that reads a register hands its value over and has the effect of the read (R42). -/
theorem step_read {g : HostReg} (hp : s.pending = .read r :: rest) (hg : HostReg.ofNumber r = some g) :
    step s = .next ((readEffect g { s with pending := rest }).giveBack g (readValue g s)) := by
  rw [step_of_pending hp, access, hostRead_of_reg hg]
  cases g <;> rfl

end Registers

/-! ### Values of the registers (R44, R45, R50) -/

/-- Joining two words is scaling the upper one and adding. -/
theorem toNat_append_eq_add {m n : Nat} (x : BitVec m) (y : BitVec n) : (x ++ y).toNat = 2 ^ n * x.toNat + y.toNat := by
  rw [BitVec.toNat_append, Nat.shiftLeft_eq, Nat.mul_comm, Nat.two_pow_add_eq_or_of_lt y.isLt]

/-- OUTDEPTH stands above the sixteen bits of KEYMAX (R50). -/
theorem capWord_toNat {c : Config} (h : c.WellFormed) : (capWord c).toNat = c.keyMax + 65536 * c.outDepth := by
  obtain ⟨⟨-, hk⟩, -, ho⟩ := h
  have hor : c.keyMax ||| c.outDepth <<< 16 = c.keyMax + 65536 * c.outDepth := by
    rw [Nat.or_comm, Nat.shiftLeft_eq, Nat.mul_comm, ← Nat.two_pow_add_eq_or_of_lt (by omega : c.keyMax < 2 ^ 16)]
    omega
  rw [capWord, hor, BitVec.toNat_ofNat]
  omega

/-- STATUS as the sum of its fields, each at its place (R44). -/
theorem statusWord_toNat {s : State} (h : s.outq.length < 2 ^ 16) : (statusWord s).toNat =
    (if s.err then 1 else 0) + 2 * s.errcode.bits.toNat + 16 * s.encN.val + 64 * s.decN.val + 256 * s.outq.length := by
  simp only [statusWord, toNat_append_eq_add, BitVec.toNat_ofNat, BitVec.toNat_ofBool]
  have henc := s.encN.isLt
  have hdec := s.decN.isLt
  have herr : s.err.toNat = if s.err then 1 else 0 := by cases s.err <;> rfl
  rw [← herr]
  omega

/-- VALID stands above the eight bits of DATA (R45). -/
theorem outWord_toNat (b : Byte) : (0x100#32 ||| b.setWidth 32).toNat = 0x100 + b.toNat := by
  have hb : b.toNat < 2 ^ 8 := b.isLt
  have h := Nat.two_pow_add_eq_or_of_lt hb 1
  rw [BitVec.toNat_or, BitVec.toNat_setWidth, Nat.mod_eq_of_lt (by omega)]
  exact h.symm

theorem ofNat_toNat_of_le {n : Nat} (h : n ≤ 65535) : (BitVec.ofNat 32 n).toNat = n := by
  rw [BitVec.toNat_ofNat]
  omega

/-- The key index of a state with the invariant is at most KEYMAX (R25, R32 (c)). -/
theorem State.Inv.kidx_le {s : State} (h : s.Inv) : s.kidx ≤ s.cfg.keyMax := by
  obtain ⟨h0, h1, hmax⟩ := h.keyIndexed
  omega

/-- Settles O12, by the step of a read and the ranges the invariant gives. -/
theorem readsReturnTheDataRegisters : Obligations.ReadsReturnTheDataRegisters := by
  intro s r rest hs hp
  obtain ⟨⟨-, hmax⟩, -⟩ := hs.wellFormed
  obtain ⟨-, -, hlen⟩ := hs.keyIndexed
  refine ⟨?_, ?_, ?_, ?_, ?_, ?_⟩ <;> rintro rfl
  · exact step_read hp rfl
  · exact step_read hp rfl
  · exact ⟨_, step_read hp rfl, ofNat_toNat_of_le (hlen.trans hmax)⟩
  · exact ⟨_, step_read hp rfl, ofNat_toNat_of_le (hs.kidx_le.trans hmax)⟩
  · exact ⟨_, step_read hp rfl, BitVec.toNat_setWidth_of_le (by decide)⟩
  · exact ⟨_, step_read hp rfl, capWord_toNat hs.wellFormed⟩

/-- Settles O13: the fields of STATUS stand side by side. -/
theorem readOfStatusReturnsTheFields : Obligations.ReadOfStatusReturnsTheFields := by
  intro s rest hcfg hq hp
  obtain ⟨-, -, hdepth⟩ := hcfg
  have hlen : s.outq.length < 2 ^ 16 := Nat.lt_succ_of_le (hq.trans hdepth)
  refine ⟨statusWord s, step_read hp rfl, statusWord_toNat hlen, ?_⟩
  rw [statusWord_toNat hlen]
  have hcode := s.errcode.bits.isLt
  have henc := s.encN.isLt
  have hdec := s.decN.isLt
  split <;> omega

/-- Settles O6: register 0 is CMD, and the word runs the command it decodes to. -/
theorem stepRunsTheWrittenCommand : Obligations.StepRunsTheWrittenCommand := by
  intro s v i rest hp hv
  rw [step_of_pending hp, access, hostWrite, HostReg.ofNumber, runWord, hv]

/-- Settles O10: a register number 1 to 7 names a register that ignores the write. -/
theorem writesToOtherRegistersAreIgnored : Obligations.WritesToOtherRegistersAreIgnored := by
  intro s r v rest hp
  rw [step_of_pending hp]
  refine ⟨?_, fun h1 h7 => ?_⟩
  · rintro rfl; rfl
  · interval_cases r <;> rfl

/-- Settles O11: there is no register of that number. -/
theorem missingRegisterStopsTheModel : Obligations.MissingRegisterStopsTheModel := by
  intro s r v rest hr
  refine ⟨fun hp => ?_, fun hp => ?_⟩
  · rw [step_of_pending hp, access, hostWrite, ofNumber_of_gt hr]
  · rw [step_of_pending hp, access, hostRead, ofNumber_of_gt hr]

/-- Settles O14, by the step of a read of OUT. -/
theorem readOfOutPopsTheQueue : Obligations.ReadOfOutPopsTheQueue := by
  intro s rest hp
  have h := step_read hp (g := .out) rfl
  refine ⟨fun hq => ?_, fun b q hq => ⟨_, ?_, outWord_toNat b⟩⟩ <;>
    · rw [h, readValue, outWord, hq]
      simp [readEffect, State.giveBack]

end Sys2Proof.Machine
end

section
/-! PROOFS. The Base64 alphabet: its maps `enc6` and `dec6` (20_memory.md R63 to R65). -/

namespace Sys2Proof.Machine

open Sys2Proof

/-! ### One table for both maps (R65) -/

/-- A row of R65's table: the code of a character and the 6-bit value it stands for. -/
def AlphabetRow (c v : Nat) : Prop :=
  (0x41 ≤ c ∧ c ≤ 0x5A ∧ v = c - 0x41) ∨ (0x61 ≤ c ∧ c ≤ 0x7A ∧ v = c - 0x61 + 26) ∨
    (0x30 ≤ c ∧ c ≤ 0x39 ∧ v = c - 0x30 + 52) ∨ (c = 0x2B ∧ v = 62) ∨ (c = 0x2F ∧ v = 63)

section Alphabet

variable {c : Byte} {v : Sextet}

theorem some_ofNat_eq_some_iff {n : Nat} (h : n < 64) : some (BitVec.ofNat 6 n) = some v ↔ v.toNat = n := by
  rw [Option.some.injEq, ← BitVec.toNat_inj, BitVec.toNat_ofNat, Nat.mod_eq_of_lt h, eq_comm]

theorem ofNat_eq_iff {n : Nat} (h : n < 256) : BitVec.ofNat 8 n = c ↔ c.toNat = n := by
  rw [← BitVec.toNat_inj, BitVec.toNat_ofNat, Nat.mod_eq_of_lt h, eq_comm]

theorem dec6_eq_some_iff_row : dec6 c = some v ↔ AlphabetRow c.toNat v.toNat := by
  unfold dec6 AlphabetRow
  dsimp only
  split_ifs
  case neg => simp only [false_iff]; omega
  all_goals rw [some_ofNat_eq_some_iff (by omega)]; omega

theorem enc6_eq_iff_row : enc6 v = c ↔ AlphabetRow c.toNat v.toNat := by
  have hv := v.isLt
  unfold enc6 AlphabetRow
  dsimp only
  split_ifs
  all_goals rw [ofNat_eq_iff (by omega)]; omega

/-- The maps have the same rows, so each is the inverse of the other (R65). -/
theorem dec6_eq_some_iff : dec6 c = some v ↔ enc6 v = c :=
  dec6_eq_some_iff_row.trans enc6_eq_iff_row.symm

@[simp] theorem dec6_enc6 (v : Sextet) : dec6 (enc6 v) = some v := dec6_eq_some_iff.mpr rfl

theorem dec6_eq_none_iff : dec6 c = none ↔ ∀ v : Sextet, ¬ AlphabetRow c.toNat v.toNat := by
  simp only [Option.eq_none_iff_forall_ne_some, ne_eq, dec6_eq_some_iff_row]

/-- A row whose value fits six bits is the value `dec6` gives. -/
theorem dec6_of_row {n : Nat} (hn : n < 64) (h : AlphabetRow c.toNat n) : ∃ v : Sextet, dec6 c = some v ∧ v.toNat = n := by
  have hv : (BitVec.ofNat 6 n).toNat = n := by rw [BitVec.toNat_ofNat, Nat.mod_eq_of_lt hn]
  exact ⟨BitVec.ofNat 6 n, dec6_eq_some_iff_row.mpr (hv.symm ▸ h), hv⟩

end Alphabet

/-- Exactly 64 of the 256 codes are valid (R65). -/
theorem length_valid_codes : ((List.range 256).filter fun n => (dec6 (BitVec.ofNat 8 n)).isSome).length = 64 := by
  decide

/-- Settles O45: `enc6` and `dec6` have the rows of one table. -/
theorem alphabetMapsAreInverse : Obligations.AlphabetMapsAreInverse := by
  refine ⟨fun c => ⟨fun hl hu => ?_, fun hl hu => ?_, fun hl hu => ?_, ?_, ?_, fun h => ?_⟩, dec6_enc6,
    fun _ _ => dec6_eq_some_iff.mp, length_valid_codes⟩
  · exact dec6_of_row (by omega) (.inl ⟨hl, hu, rfl⟩)
  · exact dec6_of_row (by omega) (.inr (.inl ⟨hl, hu, rfl⟩))
  · exact dec6_of_row (by omega) (.inr (.inr (.inl ⟨hl, hu, rfl⟩)))
  · rintro rfl; rfl
  · rintro rfl; rfl
  · refine dec6_eq_none_iff.mpr fun v hr => ?_
    simp only [List.mem_cons, List.not_mem_nil, or_false] at h
    unfold AlphabetRow at hr
    omega

end Sys2Proof.Machine
end

section
/-! PROOFS. The decoder, the encoder and the opcode map (30_encoding.md R90 to R97): the round trip, the row a word selects, and
which words are legal. -/

namespace Sys2Proof.Machine

open Sys2Proof

/-! ### The round trip (R94, R97) -/

theorem decode_eq_legal_iff {v : Word} {i : Instr} : decode v = .legal i ↔ encode i = v :=
  ⟨encode_of_decode, fun h => h ▸ decode_encode i⟩

/-- Settles O1, by the two directions of the round trip. -/
theorem decodeReadsExactlyTheEncodedWord : Obligations.DecodeReadsExactlyTheEncodedWord :=
  fun _ _ => decode_eq_legal_iff

/-- Settles O4: each word is a closed term that the decoder evaluates. -/
theorem sampleWordsDecode : Obligations.SampleWordsDecode :=
  ⟨rfl, rfl, rfl, rfl, rfl, rfl, rfl, rfl⟩

/-- Different fields pack into different words (R90). -/
theorem pack_injective : Function.Injective Fields.pack := Function.LeftInverse.injective fieldsOf_pack

theorem encode_injective : Function.Injective encode := fun i j h => by
  simpa using congrArg decode h

/-! ### Commands by opcode and operand (R93) -/

/-- The fields of a command with another operand: the opcode's own, and DATA where the opcode takes it. -/
theorem fields_withOperand (i : Instr) (d : Byte) :
    (withOperand i d).fields = { rsv := 0, op := i.fields.op, data := if takesOperand i.fields.op then d else 0 } := by
  cases i <;> rfl

/-- A command without operand is the only one of its opcode. -/
theorem withOperand_of_no_operand {i : Instr} (h : takesOperand i.fields.op = false) (d : Byte) : withOperand i d = i := by
  cases i with
  | b64ePut _ | b64dPut _ | keyPut _ | brdEnc _ | brdDec _ => cases h
  | _ => rfl

theorem withOperand_withOperand (i : Instr) (d e : Byte) : withOperand (withOperand i d) e = withOperand i e := by
  cases i <;> rfl

theorem withOperand_data (i : Instr) : withOperand i i.fields.data = i := by
  cases i <;> rfl

/-- Each command is one of the opcode map's but for its operand. -/
theorem withOperand_zero_mem (i : Instr) : withOperand i 0 ∈ oneOfEach := by
  cases i <;> simp [oneOfEach, withOperand]

/-! ### The row a word selects (R93) -/

/-- The match value of a row is the opcode with every other field zero. -/
theorem row_word (j : Instr) : j.row.word = { rsv := 0, op := j.fields.op, data := 0 : Fields }.pack := by
  cases j <;> simp only [Instr.row, Instr.fields] <;> rfl

/-- The mask leaves DATA open where the opcode takes it as operand. -/
theorem row_mask (j : Instr) :
    j.row.mask = if takesOperand j.fields.op then BitVec.allOnes 24 ++ 0#8 else BitVec.allOnes 32 := by
  cases j <;> rfl

/-- The mask of an opcode with operand drops DATA and keeps the other fields. -/
theorem pack_and_operandMask (f : Fields) : f.pack &&& BitVec.allOnes 24 ++ 0#8 = { f with data := 0 }.pack := by
  rw [Fields.pack, BitVec.and_append, BitVec.and_allOnes, BitVec.and_zero]
  rfl

/-- A word selects the row of a command exactly when it is that command with the word's DATA as operand. -/
theorem row_selects_iff {j : Instr} {v : Word} :
    j.row.selects v = true ↔ encode (withOperand j (fieldsOf v).data) = v := by
  obtain ⟨⟨rsv, op, data⟩, rfl⟩ : ∃ f : Fields, f.pack = v := ⟨_, pack_fieldsOf v⟩
  rw [OpRow.selects, decide_eq_true_iff, row_word, row_mask, encode, fields_withOperand, fieldsOf_pack, pack_injective.eq_iff]
  cases takesOperand j.fields.op with
  | true =>
    rw [if_pos rfl, pack_and_operandMask, pack_injective.eq_iff]
    simp only [Fields.mk.injEq, if_true, and_true]
    exact and_congr eq_comm eq_comm
  | false =>
    rw [if_neg Bool.false_ne_true, BitVec.and_allOnes, pack_injective.eq_iff, if_neg Bool.false_ne_true, eq_comm]

/-- One command of each opcode, so one row for each command. -/
theorem filter_oneOfEach (i : Instr) :
    (oneOfEach.filter fun j => withOperand j i.fields.data = i).map Instr.row = [i.row] := by
  cases i <;> simp [oneOfEach, withOperand, Instr.fields, Instr.row]

theorem filter_selects_encode (i : Instr) : opcodeMap.filter (fun r => r.selects (encode i)) = [i.row] := by
  have hsel : (fun j : Instr => j.row.selects (encode i)) = fun j => decide (withOperand j i.fields.data = i) := by
    funext j
    rw [Bool.eq_iff_iff, row_selects_iff, encode_injective.eq_iff, encode, fieldsOf_pack, decide_eq_true_iff]
  rw [opcodeMap, List.filter_map, Function.comp_def, hsel, filter_oneOfEach]

/-- Settles O2: a word that selects a row is the word of that row's command. -/
theorem everyWordSelectsAtMostOneRow : Obligations.EveryWordSelectsAtMostOneRow := by
  refine ⟨rfl, fun v => ⟨fun i hv => ?_, fun w hv => ?_⟩⟩
  · rw [← encode_of_decode hv, filter_selects_encode]
  · rw [opcodeMap, List.filter_eq_nil_iff, List.forall_mem_map]
    intro j _ hsel
    rw [← row_selects_iff.mp hsel, decode_encode] at hv
    cases hv

/-! ### The legal words (R94, R95) -/

theorem fields_wf (i : Instr) : i.fields.wf = true := by
  cases i <;> rfl

/-- Each of the 14 opcodes has a command (R93). -/
theorem exists_command_of_op : ∀ op : BitVec 4, op.toNat < 14 → ∃ j ∈ oneOfEach, j.fields.op = op := by
  decide

/-- Fields that pass the checks are the fields of a command. -/
theorem exists_fields_eq {f : Fields} (h : f.wf = true) : ∃ i : Instr, i.fields = f := by
  obtain ⟨rsv, op, data⟩ := f
  simp only [Fields.wf, Fields.reservedZero, Fields.opcodeAssigned, Fields.operandAllowed, Bool.and_eq_true, Bool.or_eq_true,
    decide_eq_true_eq] at h
  obtain ⟨⟨rfl, hop⟩, hdata⟩ := h
  obtain ⟨j, -, rfl⟩ := exists_command_of_op op hop
  refine ⟨withOperand j data, ?_⟩
  rw [fields_withOperand]
  split_ifs with ht
  · rfl
  · rw [hdata.resolve_left ht]

/-- A word whose fields pass the checks decodes to the command with those fields. -/
theorem exists_decode_of_wf {v : Word} (h : (fieldsOf v).wf = true) : ∃ i, decode v = .legal i ∧ i.fields = fieldsOf v := by
  obtain ⟨i, hi⟩ := exists_fields_eq h
  refine ⟨i, ?_, hi⟩
  rw [← pack_fieldsOf v, ← hi]
  exact decode_encode i

theorem exists_illegal_of_not_wf {v : Word} (h : ¬ (fieldsOf v).wf = true) : ∃ w, decode v = .illegal w := by
  cases hv : decode v with
  | illegal w => exact ⟨w, rfl⟩
  | legal i =>
    rw [← encode_of_decode hv, encode, fieldsOf_pack] at h
    exact absurd (fields_wf i) h

/-! The fields as numbers (R90). -/

theorem fieldsOf_rsv_toNat (v : Word) : (fieldsOf v).rsv.toNat = v.toNat / 4096 := by
  simp only [fieldsOf, BitVec.extractLsb'_toNat, Nat.shiftRight_eq_div_pow]
  omega

theorem fieldsOf_op_toNat {v : Word} (h : v.toNat / 4096 = 0) : (fieldsOf v).op.toNat = v.toNat / 256 := by
  simp only [fieldsOf, BitVec.extractLsb'_toNat, Nat.shiftRight_eq_div_pow]
  omega

theorem fieldsOf_data_toNat (v : Word) : (fieldsOf v).data.toNat = v.toNat % 256 := by
  simp only [fieldsOf, BitVec.extractLsb'_toNat, Nat.shiftRight_zero]

theorem takesOperand_iff : ∀ op : BitVec 4, takesOperand op = true ↔ op.toNat ∈ [0x3, 0x6, 0x9, 0xB, 0xC] := by
  decide

/-- The checks of R94 in terms of the word's fields as numbers. -/
theorem fieldsOf_wf_iff (v : Word) : (fieldsOf v).wf = true ↔
    v.toNat / 4096 = 0 ∧ v.toNat / 256 < 14 ∧ (v.toNat / 256 ∈ [0x3, 0x6, 0x9, 0xB, 0xC] ∨ v.toNat % 256 = 0) := by
  simp only [Fields.wf, Fields.reservedZero, Fields.opcodeAssigned, Fields.operandAllowed, Bool.and_eq_true, Bool.or_eq_true,
    decide_eq_true_eq, takesOperand_iff, ← BitVec.toNat_inj, fieldsOf_rsv_toNat, fieldsOf_data_toNat, BitVec.ofNat_eq_ofNat,
    BitVec.toNat_ofNat, Nat.zero_mod, and_assoc]
  exact and_congr_right fun h => by rw [fieldsOf_op_toNat h]

theorem lt_of_mem_operandOpcodes {n : Nat} (h : n ∈ [0x3, 0x6, 0x9, 0xB, 0xC]) : n < 14 := by
  simp only [List.mem_cons, List.not_mem_nil, or_false] at h
  omega

/-- The opcodes without operand are assigned and take none (R93). -/
theorem of_mem_plainOpcodes {n : Nat} (h : n ∈ [0x0, 0x1, 0x2, 0x4, 0x5, 0x7, 0x8, 0xA, 0xD]) :
    n < 14 ∧ n ∉ [0x3, 0x6, 0x9, 0xB, 0xC] := by
  simp only [List.mem_cons, List.not_mem_nil, or_false] at h ⊢
  omega

/-! ### The count of the legal words (R94) -/

/-- The commands of the opcode of `j`: one, or one for each value of the operand. -/
def commandsLike (j : Instr) : List Instr :=
  if takesOperand j.fields.op then (List.finRange 256).map fun d => withOperand j (BitVec.ofFin d) else [j]

/-- All commands, opcode by opcode. -/
def allCommands : List Instr := oneOfEach.flatMap commandsLike

theorem fields_op_of_mem_commandsLike {i j : Instr} (h : i ∈ commandsLike j) : i.fields.op = j.fields.op := by
  unfold commandsLike at h
  split_ifs at h
  · obtain ⟨d, -, rfl⟩ := List.mem_map.mp h
    rw [fields_withOperand]
  · rw [List.mem_singleton.mp h]

theorem nodup_commandsLike (j : Instr) : (commandsLike j).Nodup := by
  unfold commandsLike
  split_ifs with h
  · refine (List.nodup_finRange 256).map fun d e hde => ?_
    have hf := congrArg (fun i : Instr => i.fields.data) hde
    simp only [fields_withOperand, h, if_true] at hf
    exact congrArg BitVec.toFin hf
  · exact List.nodup_singleton j

theorem nodup_allCommands : allCommands.Nodup := by
  refine List.nodup_flatMap.mpr ⟨fun j _ => nodup_commandsLike j, ?_⟩
  have hops : oneOfEach.Pairwise fun j k => j.fields.op ≠ k.fields.op := by decide
  refine hops.imp fun {j k} hjk i hj hk => hjk ?_
  rw [← fields_op_of_mem_commandsLike hj, fields_op_of_mem_commandsLike hk]

theorem withOperand_mem_commandsLike (j : Instr) (d : Byte) : withOperand j d ∈ commandsLike j := by
  unfold commandsLike
  split_ifs with h
  · exact List.mem_map.mpr ⟨d.toFin, List.mem_finRange _, rfl⟩
  · rw [withOperand_of_no_operand (Bool.eq_false_of_not_eq_true h)]
    exact List.mem_singleton_self j

theorem mem_allCommands (i : Instr) : i ∈ allCommands := by
  refine List.mem_flatMap.mpr ⟨withOperand i 0, withOperand_zero_mem i, ?_⟩
  have h := withOperand_mem_commandsLike (withOperand i 0) i.fields.data
  rwa [withOperand_withOperand, withOperand_data] at h

theorem length_commandsLike (j : Instr) : (commandsLike j).length = if takesOperand j.fields.op then 256 else 1 := by
  unfold commandsLike
  split_ifs <;> simp

/-- Five opcodes with 256 operands each, and nine without (R94). -/
theorem length_allCommands : allCommands.length = 1289 := by
  simp only [allCommands, List.length_flatMap, length_commandsLike]
  rfl

/-- Settles O3: a word is legal when its fields pass the checks, and the legal words are those of all commands. -/
theorem decodeFollowsTheProcedureAndAccepts1289Words : Obligations.DecodeFollowsTheProcedureAndAccepts1289Words := by
  refine ⟨fun v h => ?_, fun v _ h => ?_, fun v h0 hop => ?_, fun v h0 hop => ⟨fun hd => ?_, fun hd => ?_⟩,
    allCommands.map encode, nodup_allCommands.map encode_injective, ?_, fun v => ?_⟩
  · refine exists_illegal_of_not_wf fun hwf => ?_
    obtain ⟨hrsv, -, -⟩ := (fieldsOf_wf_iff v).mp hwf
    exact h hrsv
  · refine exists_illegal_of_not_wf fun hwf => ?_
    obtain ⟨-, hop, -⟩ := (fieldsOf_wf_iff v).mp hwf
    exact not_lt.mpr h hop
  · obtain ⟨i, hi, hf⟩ := exists_decode_of_wf ((fieldsOf_wf_iff v).mpr ⟨h0, lt_of_mem_operandOpcodes hop, .inl hop⟩)
    exact ⟨i, hi, by rw [hf, fieldsOf_op_toNat h0], by rw [hf, fieldsOf_data_toNat]⟩
  · obtain ⟨hlt, -⟩ := of_mem_plainOpcodes hop
    obtain ⟨i, hi, hf⟩ := exists_decode_of_wf ((fieldsOf_wf_iff v).mpr ⟨h0, hlt, .inr hd⟩)
    exact ⟨i, hi, by rw [hf, fieldsOf_op_toNat h0]⟩
  · refine exists_illegal_of_not_wf fun hwf => ?_
    obtain ⟨-, hno⟩ := of_mem_plainOpcodes hop
    obtain ⟨-, -, hdata⟩ := (fieldsOf_wf_iff v).mp hwf
    exact hdata.elim hno hd
  · rw [List.length_map, length_allCommands]
  · simp only [decode_eq_legal_iff, List.mem_map, mem_allCommands, true_and]

end Sys2Proof.Machine
end

section
/-! PROOFS. `DRAIN` (30_encoding.md R98). -/

namespace Sys2Proof.Machine

open Sys2Proof

section Drain

variable {s : State} {rest : List HostAccess}

/-- `DRAIN` on an empty queue reads 0 and is over (R45, R98). -/
theorem step_drain_of_nil (hp : s.pending = .drain :: rest) (hq : s.outq = []) :
    step s = .next { s with pending := rest, returned := s.returned ++ [⟨.out, 0#32⟩] } := by
  rw [step_of_pending hp, access, drainRead]
  simp [hq, hostRead_of_reg (g := .out), HostReg.ofNumber, readEffect, readValue, outWord, State.giveBack]

/-- `DRAIN` on a queue that holds a byte reads that byte and stays first in line (R45, R98). -/
theorem step_drain_of_cons {b : Byte} {q : List Byte} (hp : s.pending = .drain :: rest) (hq : s.outq = b :: q) :
    step s = .next { s with outq := q, returned := s.returned ++ [⟨.out, 0x100#32 ||| b.setWidth 32⟩] } := by
  rw [step_of_pending hp, access, drainRead]
  simp [hq, hp, hostRead_of_reg (g := .out), HostReg.ofNumber, readEffect, readValue, outWord, State.giveBack]

end Drain

/-- The state after a whole `DRAIN`: the queue is empty and each of its bytes has been returned in order, then a 0 (R98). -/
def State.drained (s : State) (rest : List HostAccess) : State :=
  { s with
    pending := rest
    outq := []
    returned := s.returned ++ (s.outq.map fun b => ⟨.out, 0x100#32 ||| b.setWidth 32⟩) ++ [⟨.out, 0#32⟩] }

/-- `DRAIN` takes one step for each byte of the queue and one for the read that finds it empty (R98). -/
theorem run_drain (q : List Byte) {s : State} {rest : List HostAccess} (hp : s.pending = .drain :: rest) (hq : s.outq = q) :
    Host.Core.run core (q.length + 1) s = .next (s.drained rest) := by
  induction q generalizing s with
  | nil =>
    rw [List.length_nil, run_of_next (step_drain_of_nil hp hq)]
    simp [Host.Core.run, State.drained, hq]
  | cons b q ih =>
    refine (run_of_next (step_drain_of_cons hp hq)).trans ((ih ?_ ?_).trans ?_)
    · exact hp
    · rfl
    · simp [State.drained, hq]

/-- The bytes a `DRAIN` returns are those it takes from the queue (R246). -/
theorem delivered_drained (s : State) (rest : List HostAccess) : (s.drained rest).delivered = s.delivered := by
  have hzero : ReadBack.byte ⟨.out, 0#32⟩ = none := rfl
  have hbytes : (s.outq.map fun b => (⟨.out, 0x100#32 ||| b.setWidth 32⟩ : ReadBack)).filterMap ReadBack.byte = s.outq := by
    rw [List.filterMap_map, Function.comp_def]
    simp only [byte_outWord_cons, List.filterMap_some]
  simp [State.delivered, State.drained, hzero, hbytes]

/-- Settles O15, by induction on the queue. -/
theorem drainCollectsTheWholeQueue : Obligations.DrainCollectsTheWholeQueue :=
  fun s rest hp => ⟨s.drained rest, run_drain s.outq hp rfl, rfl, delivered_drained s rest⟩

end Sys2Proof.Machine
end

section
/-! PROOFS. The text form of commands (30_encoding.md R97). -/

namespace Sys2Proof.Machine

open Sys2Proof

/-! ### The mnemonic (R93, R97) -/

/-- No mnemonic of the opcode map begins another one. -/
theorem names_prefix_free : ∀ i ∈ oneOfEach, ∀ j ∈ oneOfEach, i.row.name <+: j.row.name → i = j := by
  decide

@[simp] theorem row_withOperand (i : Instr) (d : Byte) : (withOperand i d).row = i.row := by
  cases i <;> rfl

/-- What follows the mnemonic is read in the same way whatever operand stands in the opcode's example. -/
theorem commandRest_withOperand (i : Instr) (d : Byte) : commandRest (withOperand i d) = commandRest i := by
  cases i <;> rfl

theorem dropBlanks_name (i : Instr) (rest : List Char) : dropBlanks (i.row.name ++ rest) = i.row.name ++ rest := by
  cases i <;> rfl

theorem afterWord_append (w rest : List Char) : afterWord w (w ++ rest) = some rest := by
  simp [afterWord]

theorem afterWord_of_not_prefix {w cs : List Char} (h : ¬ w <+: cs) : afterWord w cs = none := by
  simp [afterWord, List.isPrefixOf_iff_prefix, h]

/-- A search that can succeed on one element only is decided by that element. -/
theorem findSome?_eq_of_unique {α β : Type} {f : α → Option β} {l : List α} {a : α} (ha : a ∈ l)
    (h : ∀ x ∈ l, x ≠ a → f x = none) : l.findSome? f = f a := by
  cases hl : l.findSome? f with
  | none => exact (List.findSome?_eq_none_iff.mp hl a ha).symm
  | some b =>
    obtain ⟨x, hx, hb⟩ := List.exists_of_findSome?_eq_some hl
    by_cases hxa : x = a
    · rw [← hxa, hb]
    · rw [h x hx hxa] at hb; cases hb

/-- A line that begins with a mnemonic is read as a command of that opcode. -/
theorem parseCommand_name_append (i : Instr) (rest : List Char) :
    parseCommand (i.row.name ++ rest) = commandRest i rest := by
  unfold parseCommand
  dsimp only
  rw [dropBlanks_name, findSome?_eq_of_unique (withOperand_zero_mem i)]
  · rw [row_withOperand, afterWord_append, Option.bind_some, commandRest_withOperand]
  · intro j hj hne
    rw [afterWord_of_not_prefix, Option.bind_none]
    intro hpre
    have hi := withOperand_zero_mem i
    rcases List.prefix_or_prefix_of_prefix hpre (List.prefix_append i.row.name rest) with h | h
    · exact hne (names_prefix_free j hj _ hi (by rwa [row_withOperand]))
    · exact hne (names_prefix_free _ hi j hj (by rwa [row_withOperand])).symm

/-- A command without operand is its mnemonic alone. -/
theorem parseCommand_name {i : Instr} (h : takesOperand i.fields.op = false) : parseCommand i.row.name = some i := by
  simpa [commandRest, h, atLineEnd, dropBlanks] using parseCommand_name_append i []

/-- A command with operand is its mnemonic, a blank and an operand in one of the three forms. -/
theorem parseCommand_operand {i : Instr} {cs : List Char} {d : Byte} (h : takesOperand i.fields.op = true)
    (hd : operandText (dropBlanks cs) = some d) : parseCommand (i.row.name ++ ' ' :: cs) = some (withOperand i d) := by
  rw [parseCommand_name_append, commandRest, if_pos h]
  simp [isBlank, hd]

/-! ### The three forms of an operand (R97) -/

theorem operandText_hex {h l : Char} {a b : Nat} (ha : hexDigit h = some a) (hb : hexDigit l = some b) :
    operandText ['0', 'x', h, l] = some (BitVec.ofNat 8 (16 * a + b)) := by
  have hquoted : quotedOperand ['0', 'x', h, l] = none := rfl
  have hhex : hexOperand ['0', 'x', h, l] = some (16 * a + b, []) := by
    simp [hexOperand, afterWord, hexPair, ha, hb]
  rw [operandText, hquoted, hhex]
  rfl

theorem operandText_quoted {c : Char} (hl : 32 ≤ c.toNat) (hu : c.toNat ≤ 126) :
    operandText [Char.ofNat 39, c, Char.ofNat 39] = some (BitVec.ofNat 8 c.toNat) := by
  have hq : (Char.ofNat 39).toNat = 39 := rfl
  have hquoted : quotedOperand [Char.ofNat 39, c, Char.ofNat 39] = some (c.toNat, []) := by
    simp [quotedOperand, hq, hl, hu]
  rw [operandText, hquoted]
  rfl

/-! A decimal number: the library's digits of a number, and their value. -/

theorem isDigit_toNat {c : Char} (h : c.isDigit = true) : 48 ≤ c.toNat ∧ c.toNat ≤ 57 :=
  Char.isDigit_iff_toNat.mp h

theorem decimalDigit_of_isDigit {c : Char} (h : c.isDigit = true) : decimalDigit c = some (c.toNat - 48) :=
  if_pos (isDigit_toNat h)

theorem isBlank_of_isDigit {c : Char} (h : c.isDigit = true) : isBlank c = false := by
  rw [isBlank, Bool.or_eq_false_iff, decide_eq_false_iff_not, decide_eq_false_iff_not]
  constructor <;> rintro rfl <;> exact absurd h (by decide)

/-- Digits alone are read to the end, as the number they are in base ten. -/
theorem decimalNumber_of_digits {cs : List Char} (h : ∀ c ∈ cs, c.isDigit = true) (n : Nat) :
    decimalNumber n cs = (Nat.ofDigitChars 10 cs n, []) := by
  induction cs generalizing n with
  | nil => rfl
  | cons c cs ih =>
    obtain ⟨hc, hcs⟩ := List.forall_mem_cons.mp h
    rw [decimalNumber, decimalDigit_of_isDigit hc, Nat.ofDigitChars_cons]
    exact ih hcs _

/-- A line that begins with a digit does not begin with a quote. -/
theorem quotedOperand_of_digit {c : Char} (h : c.isDigit = true) (cs : List Char) : quotedOperand (c :: cs) = none := by
  have hc : c.toNat ≠ 39 := fun h39 => absurd (isDigit_toNat h) (by omega)
  unfold quotedOperand
  split
  · next heq => cases heq; simp [hc]
  · rfl

/-- A line of digits does not begin with `0x`, for `x` is no digit. -/
theorem hexOperand_of_digits {cs : List Char} (h : ∀ c ∈ cs, c.isDigit = true) : hexOperand cs = none := by
  have hpre : ¬ ['0', 'x'] <+: cs := fun hpre => absurd (h 'x' (hpre.mem (by simp))) (by decide)
  rw [hexOperand, afterWord_of_not_prefix hpre]

theorem decimalOperand_of_digits {cs : List Char} (h : ∀ c ∈ cs, c.isDigit = true) (hne : cs ≠ [])
    (hle : Nat.ofDigitChars 10 cs 0 ≤ 255) : decimalOperand cs = some (Nat.ofDigitChars 10 cs 0, []) := by
  obtain ⟨c, cs, rfl⟩ := List.exists_cons_of_ne_nil hne
  rw [decimalOperand, decimalNumber_of_digits h, decimalDigit_of_isDigit (h c List.mem_cons_self)]
  simp [hle]

theorem operandText_digits {cs : List Char} (h : ∀ c ∈ cs, c.isDigit = true) (hne : cs ≠ [])
    (hle : Nat.ofDigitChars 10 cs 0 ≤ 255) : operandText cs = some (BitVec.ofNat 8 (Nat.ofDigitChars 10 cs 0)) := by
  have hquoted : quotedOperand cs = none := by
    obtain ⟨c, cs, rfl⟩ := List.exists_cons_of_ne_nil hne
    exact quotedOperand_of_digit (h c List.mem_cons_self) cs
  rw [operandText, hquoted, hexOperand_of_digits h, decimalOperand_of_digits h hne hle]
  rfl

theorem dropBlanks_of_digits {cs : List Char} (h : ∀ c ∈ cs, c.isDigit = true) : dropBlanks cs = cs := by
  cases cs with
  | nil => rfl
  | cons c cs =>
    have hblank : isBlank c = false := isBlank_of_isDigit (h c List.mem_cons_self)
    rw [dropBlanks, List.dropWhile_cons_of_neg (by simp [hblank])]

theorem operandText_toDigits {n : Nat} (hn : n ≤ 255) :
    operandText (dropBlanks (Nat.toDigits 10 n)) = some (BitVec.ofNat 8 n) := by
  have hdigits : ∀ c ∈ Nat.toDigits 10 n, c.isDigit = true :=
    fun c hc => Nat.isDigit_of_mem_toDigits (by decide) (by decide) hc
  have hvalue : Nat.ofDigitChars 10 (Nat.toDigits 10 n) 0 = n := Nat.ofDigitChars_ten_toDigits
  rw [dropBlanks_of_digits hdigits, operandText_digits hdigits Nat.toDigits_ne_nil (hvalue.symm ▸ hn), hvalue]

/-- Settles O5: the mnemonic tells the command, and each form of the operand reads back as its value. -/
theorem commandTextReadsBack : Obligations.CommandTextReadsBack := by
  refine ⟨fun i hi => parseCommand_name hi, fun i h l a b hi ha hb => ?_, fun i c hi hl hu => ?_, fun i n hi hn => ?_⟩
  · exact parseCommand_operand hi (operandText_hex ha hb)
  · exact parseCommand_operand hi (operandText_quoted hl hu)
  · rw [List.append_assoc]
    exact parseCommand_operand hi (operandText_toDigits hn)

end Sys2Proof.Machine
end

section
/-! PROOFS. The encoder's commands: the characters of a group in terms of its bytes, and what each command does
(40_base64_encoder.md R121 to R123). -/

namespace Sys2Proof.Machine

open Sys2Proof

/-- The word of a command is the one of its row in the opcode map with the operand in the low byte (R93, R97). -/
theorem encode_eq_or_data (i : Instr) : encode i = i.row.word ||| i.fields.data.setWidth 32 := by
  have hdata : i.fields.data.setWidth 32 = 0#24 ++ i.fields.data := BitVec.setWidth_eq_append (by decide)
  have hrsv : i.fields.rsv = 0 := by cases i <;> rfl
  rw [row_word, hdata, encode, Fields.pack, Fields.pack, BitVec.or_append, hrsv]
  simp

/-! ### The four 6-bit values of a packed group (R62) -/

section Characters

variable (a b c : Byte)

theorem extractLsb'_packGroup_18 : (packGroup a b c).extractLsb' 18 6 = (a >>> 2).setWidth 6 := by
  ext i hi
  interval_cases i <;> simp [packGroup]

theorem extractLsb'_packGroup_12 :
    (packGroup a b c).extractLsb' 12 6 = (((a &&& 0x03#8) <<< 4) ||| (b >>> 4)).setWidth 6 := by
  ext i hi
  interval_cases i <;> simp [packGroup]

theorem extractLsb'_packGroup_6 :
    (packGroup a b c).extractLsb' 6 6 = (((b &&& 0x0F#8) <<< 2) ||| (c >>> 6)).setWidth 6 := by
  ext i hi
  interval_cases i <;> simp [packGroup]

theorem extractLsb'_packGroup_0 : (packGroup a b c).extractLsb' 0 6 = (c &&& 0x3F#8).setWidth 6 := by
  ext i hi
  interval_cases i <;> simp [packGroup]

/-- The characters of a full group are those of its four slices (R62, R122). -/
theorem encGroup_eq_slices : encGroup a b c =
    [sliceChar (packGroup a b c) 18, sliceChar (packGroup a b c) 12, sliceChar (packGroup a b c) 6,
      sliceChar (packGroup a b c) 0] := by
  simp only [encGroup, sliceChar, extractLsb'_packGroup_18, extractLsb'_packGroup_12, extractLsb'_packGroup_6,
    extractLsb'_packGroup_0]

/-- A group of one byte is packed with two zero bytes after it (R123). -/
theorem encLastOne_eq_slices :
    encLastOne a = [sliceChar (packGroup a 0 0) 18, sliceChar (packGroup a 0 0) 12, pad, pad] := by
  simp [encLastOne, sliceChar, extractLsb'_packGroup_18, extractLsb'_packGroup_12]

/-- A group of two bytes is packed with one zero byte after it (R123). -/
theorem encLastTwo_eq_slices : encLastTwo a b =
    [sliceChar (packGroup a b 0) 18, sliceChar (packGroup a b 0) 12, sliceChar (packGroup a b 0) 6, pad] := by
  simp [encLastTwo, sliceChar, extractLsb'_packGroup_18, extractLsb'_packGroup_12, extractLsb'_packGroup_6]

end Characters

/-! ### The bytes held in the group buffer (R21) -/

/-- The bytes of the current group received so far, oldest first: the first ENC_N of ENC_B0 and ENC_B1 (R21). -/
def State.held (s : State) : List Byte := [s.encB0, s.encB1].take s.encN

section Effects

variable {s : State}

theorem held_of_zero (h : s.encN = 0) : s.held = [] := by simp [State.held, h]

theorem held_of_one (h : s.encN = 1) : s.held = [s.encB0] := by simp [State.held, h]

theorem held_of_two (h : s.encN = 2) : s.held = [s.encB0, s.encB1] := by simp [State.held, h]

theorem encN_cases (n : Fin 3) : n = 0 ∨ n = 1 ∨ n = 2 := by omega

/-- Emptying a group that is empty and clean changes nothing (R32 (a)). -/
theorem clearEnc_of_zero (h : s.encN = 0) (hc : s.EncClean) : s.clearEnc = s := by
  obtain ⟨h0, h1⟩ := hc.1 h
  cases s
  simp_all [State.clearEnc]

/-! ### The effects of the three commands -/

theorem encPutEffect_of_zero (d : Byte) (h : s.encN = 0) :
    encPutEffect d s = { out := [], after := { s with encB0 := d, encN := 1 } } := by
  simp [encPutEffect, h]

theorem encPutEffect_of_one (d : Byte) (h : s.encN = 1) :
    encPutEffect d s = { out := [], after := { s with encB1 := d, encN := 2 } } := by
  simp [encPutEffect, h]

theorem encPutEffect_of_two (d : Byte) (h : s.encN = 2) :
    encPutEffect d s = { out := encGroup s.encB0 s.encB1 d, after := s.clearEnc } := by
  simp [encPutEffect, h, encGroup_eq_slices]

/-- Where the unused bytes are zero, `B64E.END` emits the encoding of the bytes held (R123, R124). -/
theorem encEndEffect_of_clean (hc : s.EncClean) : encEndEffect s = { out := encText s.held, after := s.clearEnc } := by
  rcases encN_cases s.encN with h | h | h
  · simp [encEndEffect, h, held_of_zero h, encText]
  · simp [encEndEffect, h, held_of_one h, encText, encLastOne_eq_slices, hc.2 h]
  · simp [encEndEffect, h, held_of_two h, encText, encLastTwo_eq_slices]

theorem exec_b64eEnd_of_room (hs : s.err = false) (hc : s.EncClean) (hroom : (encText s.held).length ≤ s.free) :
    exec .b64eEnd s = .next (s.clearEnc.emit (encText s.held)) := by
  rw [exec, execB64eEnd, encEndEffect_of_clean hc]
  exact runEffect_of_room hs hroom

theorem exec_b64eEnd_of_overrun (hs : s.err = false) (hc : s.EncClean) (hroom : s.free < (encText s.held).length) :
    exec .b64eEnd s = .next (s.raiseFault .outOverrun) := by
  rw [exec, execB64eEnd, encEndEffect_of_clean hc]
  exact runEffect_of_overrun hs hroom

end Effects

/-- Settles O21: the command has no condition and emits nothing. -/
theorem encInitEmptiesTheGroup : Obligations.EncInitEmptiesTheGroup :=
  ⟨rfl, fun _ hs => runEffect_of_silent hs⟩

/-- Settles O22, by the effect of `B64E.PUT` for each number of bytes held. -/
theorem encPutHoldsOrEmitsAGroup : Obligations.EncPutHoldsOrEmitsAGroup := by
  refine fun d => ⟨encode_eq_or_data (.b64ePut d), fun s hs => ⟨fun h => ?_, fun h => ?_, fun h hroom => ?_, fun h hroom => ?_⟩⟩ <;>
    rw [exec, execB64ePut]
  · rw [encPutEffect_of_zero d h]
    exact runEffect_of_silent hs
  · rw [encPutEffect_of_one d h]
    exact runEffect_of_silent hs
  · rw [encPutEffect_of_two d h]
    exact runEffect_of_room hs hroom
  · rw [encPutEffect_of_two d h]
    exact runEffect_of_overrun hs hroom

/-- Settles O23: `B64E.END` emits the encoding of the bytes held, which is empty or has four characters. -/
theorem encEndEmitsThePaddedGroup : Obligations.EncEndEmitsThePaddedGroup := by
  refine ⟨rfl, fun s hs hc => ⟨fun h => ?_, fun h hroom => ?_, fun h hroom => ?_, fun h hroom => ?_⟩⟩
  · rw [exec_b64eEnd_of_room hs hc, held_of_zero h, clearEnc_of_zero h hc]
    · exact congrArg _ (State.emit_nil s)
    · rw [held_of_zero h]
      exact Nat.zero_le _
  · have hheld := held_of_one h
    rw [exec_b64eEnd_of_room hs hc (by rw [hheld]; exact hroom), hheld]
    rfl
  · have hheld := held_of_two h
    rw [exec_b64eEnd_of_room hs hc (by rw [hheld]; exact hroom), hheld]
    rfl
  · refine exec_b64eEnd_of_overrun hs hc ?_
    rcases h with h | h
    · rw [held_of_one h]
      exact hroom
    · rw [held_of_two h]
      exact hroom

end Sys2Proof.Machine
end

section
/-! PROOFS. What the commands of each engine leave unchanged (40_base64_encoder.md R120, 60_exceptions.md R205). -/

namespace Sys2Proof.Machine

open Sys2Proof

/-! ### The Base64 engines -/

section Base64

variable {i : Instr} {s t : State}

theorem encPutEffect_after (d : Byte) (s : State) :
    ∃ n b0 b1, (encPutEffect d s).after = { s with encN := n, encB0 := b0, encB1 := b1 } := by
  unfold encPutEffect
  split_ifs <;> exact ⟨_, _, _, rfl⟩

theorem encEndEffect_after (s : State) :
    ∃ n b0 b1, (encEndEffect s).after = { s with encN := n, encB0 := b0, encB1 := b1 } := by
  unfold encEndEffect
  split_ifs <;> exact ⟨_, _, _, rfl⟩

theorem decPutEffect_after (c : Byte) (s : State) :
    ∃ n s0 s1 s2 d, (decPutEffect c s).after = { s with decN := n, decS0 := s0, decS1 := s1, decS2 := s2, dcnt := d } := by
  unfold decPutEffect decPutValueEffect
  cases dec6 c with
  | none => exact ⟨_, _, _, _, _, rfl⟩
  | some v => dsimp only; split_ifs <;> exact ⟨_, _, _, _, _, rfl⟩

/-- Every B64E command runs an effect that changes the encoder's group buffer only, and emits what R33 says. -/
theorem exec_encoder_eq (hi : isEncoderCommand i = true) (s : State) :
    ∃ eff n b0 b1, exec i s = runEffect eff s ∧ eff.out.length = emissionCount i s ∧
      eff.after = { s with encN := n, encB0 := b0, encB1 := b1 } := by
  cases i with
  | b64eInit => exact ⟨_, _, _, _, rfl, rfl, rfl⟩
  | b64ePut d =>
    obtain ⟨n, b0, b1, h⟩ := encPutEffect_after d s
    exact ⟨_, n, b0, b1, rfl, (encPutEffect_lawful d s).count, h⟩
  | b64eEnd =>
    obtain ⟨n, b0, b1, h⟩ := encEndEffect_after s
    exact ⟨_, n, b0, b1, rfl, (encEndEffect_lawful s).count, h⟩
  | _ => cases hi

/-- Every B64D command runs an effect that changes the decoder's group buffer and DCNT only, and emits what R33 says. -/
theorem exec_decoder_eq (hi : isDecoderCommand i = true) (s : State) :
    ∃ eff n s0 s1 s2 d, exec i s = runEffect eff s ∧ eff.out.length = emissionCount i s ∧
      eff.after = { s with decN := n, decS0 := s0, decS1 := s1, decS2 := s2, dcnt := d } := by
  cases i with
  | b64dInit => exact ⟨_, _, _, _, _, _, rfl, rfl, rfl⟩
  | b64dPut c =>
    obtain ⟨n, s0, s1, s2, d, h⟩ := decPutEffect_after c s
    exact ⟨_, n, s0, s1, s2, d, rfl, (decPutEffect_lawful c s).count, h⟩
  | b64dEnd => exact ⟨_, _, _, _, _, _, rfl, flushBytes_length s, rfl⟩
  | _ => cases hi

end Base64

/-- Settles O36: a B64E command is ignored, overruns, or completes, and then changes its group buffer and the tail of OUTQ. -/
theorem encoderCommandsFrame : Obligations.EncoderCommandsFrame := by
  intro i s t hi h
  obtain ⟨eff, n, b0, b1, he, hcount, hafter⟩ := exec_encoder_eq hi s
  rcases runEffect_next (he ▸ h) with ⟨-, rfl⟩ | ⟨-, -, rfl⟩ | ⟨-, -, rfl⟩
  · simp
  · exact ⟨⟨rfl, rfl, rfl, rfl, rfl⟩, ⟨rfl, rfl, rfl⟩, ⟨rfl, rfl, rfl⟩, .inl rfl⟩
  · rw [hafter]
    exact ⟨⟨rfl, rfl, rfl, rfl, rfl⟩, ⟨rfl, rfl, rfl⟩, ⟨rfl, rfl, rfl⟩, .inr ⟨rfl, rfl, .inr ⟨eff.out, hcount, rfl⟩⟩⟩

/-- Settles O37: a B64D command is ignored, overruns, or completes, and then changes its group buffer, DCNT and the tail of
OUTQ. -/
theorem decoderCommandsFrame : Obligations.DecoderCommandsFrame := by
  intro i s t hi h
  obtain ⟨eff, n, s0, s1, s2, d, he, hcount, hafter⟩ := exec_decoder_eq hi s
  rcases runEffect_next (he ▸ h) with ⟨-, rfl⟩ | ⟨-, -, rfl⟩ | ⟨-, -, rfl⟩
  · simp
  · exact ⟨⟨rfl, rfl, rfl⟩, ⟨rfl, rfl, rfl⟩, ⟨rfl, rfl, rfl⟩, .inl rfl⟩
  · rw [hafter]
    exact ⟨⟨rfl, rfl, rfl⟩, ⟨rfl, rfl, rfl⟩, ⟨rfl, rfl, rfl⟩, .inr ⟨rfl, rfl, .inr ⟨eff.out, hcount, rfl⟩⟩⟩

/-! ### The braid cipher and its key -/

/-- What the pseudocode of a KEY or BRD command leaves (R161, R162, R173 to R176), whatever the offset and the byte it makes. -/
inductive BraidBody (s : State) : Instr → State → Prop
  | keyClr : BraidBody s .keyClr { s with key := [], kidx := 0 }
  | keyPut (k : Byte) : BraidBody s (.keyPut k) { s with key := s.key ++ [k], kidx := 0 }
  | brdInit : BraidBody s .brdInit { s with kidx := 0 }
  | brdEnc (m : Byte) (o b : Byte) : BraidBody s (.brdEnc m) { s with ofs := o, kidx := nextKidx s, outq := s.outq ++ [b] }
  | brdDec (c : Byte) (o b : Byte) : BraidBody s (.brdDec c) { s with ofs := o, kidx := nextKidx s, outq := s.outq ++ [b] }
  | brdOfs (o : Byte) : BraidBody s .brdOfs { s with ofs := o }

section Braid

variable {i : Instr} {s t : State}

/-- The checks of R200 leave the state, enter a fault, or let the command run. -/
theorem attempt_next_or_body {own : Option ErrCode} {e : Nat} {body : Result} (h : attempt own e body s = .next t) :
    t = s ∨ (∃ c, t = s.raiseFault c) ∨ body = .next t := by
  rcases attempt_next h with ⟨-, ht⟩ | ⟨-, ⟨c, -, ht⟩ | ⟨-, -, ht⟩ | ⟨-, -, hb⟩⟩
  · exact .inl ht
  · exact .inr (.inl ⟨c, ht⟩)
  · exact .inr (.inl ⟨_, ht⟩)
  · exact .inr (.inr hb)

theorem runEffect_silent_next {a : State} (h : runEffect { out := [], after := a } s = .next t) :
    t = s ∨ (∃ c, t = s.raiseFault c) ∨ t = a := by
  refine (attempt_next_or_body h).imp_right (Or.imp_right fun hb => ?_)
  cases hb
  exact State.emit_nil a

theorem braidData_next_or_body {f : Offset → Byte} (h : braidData f s = .next t) :
    t = s ∨ (∃ c, t = s.raiseFault c) ∨ ∃ o b, t = { s with ofs := o, kidx := nextKidx s, outq := s.outq ++ [b] } := by
  refine (attempt_next_or_body h).imp_right (Or.imp_right fun hb => ?_)
  obtain ⟨_, hb⟩ := withKeyByte_next hb
  cases hb
  exact ⟨_, _, rfl⟩

/-- A KEY or BRD command that answers a state is ignored, faults, or has run its pseudocode. -/
theorem exec_braid_next (hi : isBraidCommand i = true) (h : exec i s = .next t) :
    t = s ∨ (∃ c, t = s.raiseFault c) ∨ BraidBody s i t := by
  cases i with
  | keyClr =>
    refine (runEffect_silent_next h).imp_right (Or.imp_right ?_)
    rintro rfl
    exact .keyClr
  | keyPut k =>
    refine (attempt_next_or_body h).imp_right (Or.imp_right fun hb => ?_)
    cases hb
    exact .keyPut k
  | brdInit =>
    refine (runEffect_silent_next h).imp_right (Or.imp_right ?_)
    rintro rfl
    exact .brdInit
  | brdEnc m =>
    refine (braidData_next_or_body h).imp_right (Or.imp_right ?_)
    rintro ⟨o, b, rfl⟩
    exact .brdEnc m o b
  | brdDec c =>
    refine (braidData_next_or_body h).imp_right (Or.imp_right ?_)
    rintro ⟨o, b, rfl⟩
    exact .brdDec c o b
  | brdOfs =>
    refine (attempt_next_or_body h).imp_right (Or.imp_right fun hb => ?_)
    obtain ⟨_, hb⟩ := withKeyByte_next hb
    cases hb
    exact .brdOfs _
  | _ => cases hi

end Braid

/-- Settles O38, by what each command's pseudocode leaves. -/
theorem braidCommandsFrame : Obligations.BraidCommandsFrame := by
  intro i s t hi h
  rcases exec_braid_next hi h with rfl | ⟨c, rfl⟩ | hb
  · simp
  · simp [State.raiseFault]
  · cases hb <;> simp

end Sys2Proof.Machine
end

section
/-! PROOFS. The encoding of a whole stream: its length and padding (40_base64_encoder.md R125), and that the encoder's commands
deliver it, in one sequence or in a run with reads between them (R124, R126). -/

namespace Sys2Proof.Machine

open Sys2Proof

/-! ### `Enc` as a function of lists (R124, R125) -/

section Text

theorem encText_length (x : List Byte) : (encText x).length = 4 * ((x.length + 2) / 3) := by
  induction x using encText.induct with
  | case1 => rfl
  | case2 a => simp [encText, encLastOne]
  | case3 a b => simp [encText, encLastTwo]
  | case4 a b c x ih =>
    simp only [encText, encGroup, List.length_append, List.length_cons, List.length_nil, ih]
    omega

/-- Whole groups are encoded on their own (R124). -/
theorem encText_append {x : List Byte} (hx : x.length % 3 = 0) (y : List Byte) :
    encText (x ++ y) = encText x ++ encText y := by
  induction x using encText.induct with
  | case1 => rfl
  | case2 | case3 => simp at hx
  | case4 a b c x ih =>
    have hx : x.length % 3 = 0 := (Nat.add_mod_right x.length 3).symm.trans hx
    simp only [List.cons_append, encText, ih hx, List.append_assoc]

/-- The padding character stands for no 6-bit value (R64). -/
theorem enc6_ne_pad (v : Sextet) : enc6 v ≠ pad := by
  intro h
  have hdec : dec6 pad = some v := dec6_eq_some_iff.mpr h
  cases hdec

/-- An encoding is characters of the alphabet and then the pads that fill its last group (R125). -/
theorem encText_eq_append_pads (x : List Byte) : ∃ body : List Byte,
    encText x = body ++ List.replicate ((3 - x.length % 3) % 3) pad ∧ ∀ c ∈ body, ∃ v : Sextet, c = enc6 v := by
  induction x using encText.induct with
  | case1 => exact ⟨[], rfl, nofun⟩
  | case2 a => exact ⟨[_, _], rfl, by simp⟩
  | case3 a b => exact ⟨[_, _, _], rfl, by simp⟩
  | case4 a b c x ih =>
    obtain ⟨body, htext, halpha⟩ := ih
    refine ⟨encGroup a b c ++ body, ?_, fun c' hc => ?_⟩
    · rw [encText, htext, List.append_assoc]
      exact congrArg (fun n => _ ++ (body ++ List.replicate ((3 - n) % 3) pad)) (Nat.add_mod_right x.length 3).symm
    · rcases List.mem_append.mp hc with hc | hc
      · simp only [encGroup, List.mem_cons, List.not_mem_nil, or_false] at hc
        rcases hc with rfl | rfl | rfl | rfl <;> exact ⟨_, rfl⟩
      · exact halpha c' hc

end Text

/-- Settles O51: no character of the alphabet is the pad. -/
theorem encodedLengthAndPadding : Obligations.EncodedLengthAndPadding := by
  intro x
  obtain ⟨body, htext, halpha⟩ := encText_eq_append_pads x
  refine ⟨encText_length x, body, htext, fun c hc => ?_⟩
  obtain ⟨v, rfl⟩ := halpha c hc
  exact ⟨enc6_ne_pad v, v, rfl⟩

/-! ### What one command of the encoder does to the stream -/

section Stream

variable {s t : State} {d : Byte} {x : List Byte}

/-- `B64E.PUT` keeps what the bytes still to come will make of the stream: the characters it emits and the encoding of the bytes
then held make up the encoding of the bytes held before and the operand (R122, R124). -/
theorem encPutEffect_conserves (d : Byte) (s : State) (y : List Byte) :
    (encPutEffect d s).out ++ encText ((encPutEffect d s).after.held ++ y) = encText (s.held ++ d :: y) := by
  rcases encN_cases s.encN with h | h | h
  · rw [encPutEffect_of_zero d h, held_of_zero h]; rfl
  · rw [encPutEffect_of_one d h, held_of_one h]; rfl
  · rw [encPutEffect_of_two d h, held_of_two h]; rfl

theorem clearEnc_clean (s : State) : s.clearEnc.EncClean := ⟨fun _ => ⟨rfl, rfl⟩, fun _ => rfl⟩

theorem encPutEffect_encN (d : Byte) (s : State) : (encPutEffect d s).after.encN.val = (s.encN.val + 1) % 3 := by
  rcases encN_cases s.encN with h | h | h
  · rw [encPutEffect_of_zero d h, h]; rfl
  · rw [encPutEffect_of_one d h, h]; rfl
  · rw [encPutEffect_of_two d h, h]; rfl

/-- Filling the first byte leaves the second as it is, so it stays zero (R32 (a)). -/
theorem encPutEffect_clean (d : Byte) (hc : s.EncClean) : (encPutEffect d s).after.EncClean := by
  rcases encN_cases s.encN with h | h | h
  · rw [encPutEffect_of_zero d h]; exact ⟨nofun, fun _ => (hc.1 h).2⟩
  · rw [encPutEffect_of_one d h]; exact ⟨nofun, nofun⟩
  · rw [encPutEffect_of_two d h]; exact clearEnc_clean s

theorem encPutEffect_delivered (d : Byte) (s : State) : (encPutEffect d s).after.delivered = s.delivered := by
  obtain ⟨n, b0, b1, h⟩ := encPutEffect_after d s
  rw [h]
  rfl

theorem runEffect_completes {eff : Effect} (hs : s.err = false) (h : runEffect eff s = .next t) (ht : t.err = false) :
    t = eff.after.emit eff.out := by
  obtain ⟨-, -, hb⟩ := attempt_completes hs h ht
  cases hb
  rfl

theorem Completes.eq_b64ePut (h : Completes (.b64ePut d) s t) :
    t = (encPutEffect d s).after.emit (encPutEffect d s).out := by
  obtain ⟨hs, h, ht⟩ := h
  exact runEffect_completes hs h ht

theorem Completes.conserves_b64ePut (h : Completes (.b64ePut d) s t) (y : List Byte) :
    t.delivered ++ encText (t.held ++ y) = s.delivered ++ encText (s.held ++ d :: y) := by
  rw [h.eq_b64ePut, delivered_emit, encPutEffect_delivered, List.append_assoc, ← encPutEffect_conserves]
  rfl

theorem Completes.unread_b64eInit (h : Completes .b64eInit s t) : t.unread = s.unread.clearEnc := by
  obtain ⟨hs, h, -⟩ := h
  cases (runEffect_of_silent hs).symm.trans h
  rfl

/-- `B64E.END` delivers the encoding of the bytes held and empties the group (R123). -/
theorem Completes.eq_b64eEnd (hc : s.EncClean) (h : Completes .b64eEnd s t) : t = s.clearEnc.emit (encText s.held) := by
  obtain ⟨hs, h, ht⟩ := h
  rw [exec, execB64eEnd, encEndEffect_of_clean hc] at h
  exact runEffect_completes hs h ht

/-! ### Sequences -/

theorem held_eq_of_unread_eq (h : s.unread = t.unread) : s.held = t.held := (congrArg State.held h :)

theorem encN_eq_of_unread_eq (h : s.unread = t.unread) : s.encN = t.encN := (congrArg State.encN h :)

theorem encClean_of_unread_eq (h : s.unread = t.unread) (hc : t.EncClean) : s.EncClean :=
  (congrArg State.EncClean h :).mpr hc

/-- `B64E.PUT` of each byte of x: what is delivered and what is held make up the encoding of the stream so far, however it goes
on (R124, R126). -/
theorem Performs.conserves_b64ePuts (h : Performs (x.map .b64ePut) s t) (y : List Byte) :
    t.delivered ++ encText (t.held ++ y) = s.delivered ++ encText (s.held ++ (x ++ y)) := by
  induction x generalizing s with
  | nil => rw [delivered_eq_of_unread_eq h, held_eq_of_unread_eq h, List.nil_append]
  | cons d x ih =>
    obtain ⟨u, v, hu, hv, h⟩ := h
    rw [ih h, hv.conserves_b64ePut, delivered_eq_of_unread_eq hu, held_eq_of_unread_eq hu, List.cons_append]

theorem Performs.encN_b64ePuts (h : Performs (x.map .b64ePut) s t) : t.encN.val = (s.encN.val + x.length) % 3 := by
  induction x generalizing s with
  | nil => rw [encN_eq_of_unread_eq h]; exact (Nat.mod_eq_of_lt s.encN.isLt).symm
  | cons d x ih =>
    obtain ⟨u, v, hu, hv, h⟩ := h
    have hn : v.encN.val = (s.encN.val + 1) % 3 := by
      rw [hv.eq_b64ePut, State.emit_encN, encPutEffect_encN, encN_eq_of_unread_eq hu]
    rw [ih h, hn, Nat.mod_add_mod, List.length_cons, Nat.add_assoc, Nat.add_comm 1]

theorem Performs.encClean_b64ePuts (hc : s.EncClean) (h : Performs (x.map .b64ePut) s t) : t.EncClean := by
  induction x generalizing s with
  | nil => exact encClean_of_unread_eq h hc
  | cons d x ih =>
    obtain ⟨u, v, hu, hv, h⟩ := h
    have hv : v.EncClean := by
      rw [hv.eq_b64ePut]
      exact encPutEffect_clean d (encClean_of_unread_eq hu hc)
    exact ih hv h

/-- `ENCODE x` delivers Enc(x) and leaves the group empty (R11, R124). -/
theorem Performs.encode (h : Performs (Pseudo.encode x).expand s t) :
    t.delivered = s.delivered ++ encText x ∧ t.encN = 0 ∧ t.encB0 = 0 ∧ t.encB1 = 0 := by
  obtain ⟨v, h, a, b, ha, hend, ht⟩ := h.of_append
  obtain ⟨u, ⟨c, e, hc, hinit, hu⟩, hputs⟩ := h.of_append
  have hinit : u.unread = s.unread.clearEnc := by rw [hu, hinit.unread_b64eInit, hc]
  have hdel : u.delivered = s.delivered := (congrArg State.outq hinit :)
  have hheld : u.held = [] := (congrArg State.held hinit :)
  have hclean : u.EncClean := (congrArg State.EncClean hinit :).mpr (clearEnc_clean _)
  have hstream := hputs.conserves_b64ePuts []
  rw [hdel, hheld, List.append_nil, List.append_nil, List.nil_append] at hstream
  have hend := hend.eq_b64eEnd (encClean_of_unread_eq ha (hputs.encClean_b64ePuts hclean))
  have ht : t.unread = (a.clearEnc.emit (encText a.held)).unread := ht.trans (congrArg State.unread hend)
  refine ⟨?_, (congrArg State.encN ht :), (congrArg State.encB0 ht :), (congrArg State.encB1 ht :)⟩
  rw [← hstream, ← delivered_eq_of_unread_eq ha, ← held_eq_of_unread_eq ha, delivered_eq_of_unread_eq ht]
  exact delivered_emit _ _

end Stream

/-! ### Sequences without reads, and what they leave to the other engines -/

section Sequences

variable {i : Instr} {l : List Instr} {s t : State} {x : List Byte}

theorem execAll_next (h : execAll (i :: l) s = .next t) : ∃ u, exec i s = .next u ∧ execAll l u = .next t := by
  rw [execAll] at h
  split at h
  case h_1 u hu => exact ⟨u, hu, h⟩
  case h_2 => cases h
  case h_3 => cases h

/-- A sequence that ends with ERR = 0 has run without a fault (R206). -/
theorem execAll_performs (hr : .rst ∉ l) (h : execAll l s = .next t) (ht : t.err = false) :
    s.err = false ∧ Performs l s t := by
  induction l generalizing s with
  | nil => cases h; exact ⟨ht, rfl⟩
  | cons i l ih =>
    obtain ⟨u, hu, h⟩ := execAll_next h
    obtain ⟨hri, hrl⟩ := not_or.mp (List.mem_cons.not.mp hr)
    obtain ⟨hue, hperf⟩ := ih hrl h
    have hdone := completes_of_exec (Ne.symm hri) hu hue
    exact ⟨hdone.1, s, u, rfl, hdone, hperf⟩

/-- No command returns a value to the host. -/
theorem ExecOutcome.returned (ho : ExecOutcome i s t) : t.returned = s.returned := by
  cases ho with
  | ignored => rfl
  | reset => rfl
  | fault => rfl
  | completes _ he =>
    obtain ⟨-, -, -, -, -, hr⟩ := shared_eq_iff.mp he.shared
    exact hr

theorem execAll_returned (h : execAll l s = .next t) : t.returned = s.returned := by
  induction l generalizing s with
  | nil => cases h; rfl
  | cons i l ih =>
    obtain ⟨u, hu, h⟩ := execAll_next h
    exact (ih h).trans (exec_outcome hu).returned

/-- Where the host reads nothing, what is delivered is what enters OUTQ. -/
theorem outq_of_delivered {bs : List Byte} (hr : t.returned = s.returned) (hd : t.delivered = s.delivered ++ bs) :
    t.outq = s.outq ++ bs := by
  rw [State.delivered, State.delivered, hr, List.append_assoc] at hd
  exact List.append_cancel_left hd

/-- What neither the host's reads nor any command of a sequence changes, the sequence keeps. -/
theorem Performs.keeps {α : Type} {P : State → α} (hread : ∀ {a b : State}, a.unread = b.unread → P a = P b)
    (hcmd : ∀ i ∈ l, ∀ {a b : State}, Completes i a b → P b = P a) (h : Performs l s t) : P t = P s := by
  induction l generalizing s with
  | nil => exact hread h
  | cons i l ih =>
    obtain ⟨u, v, hu, hv, h⟩ := h
    obtain ⟨hi, hl⟩ := List.forall_mem_cons.mp hcmd
    rw [ih hl h, hi hv, hread hu]

/-- The parameters and the elements of the other engines: what B64E commands leave unchanged (R2, R120). -/
def State.outsideEnc (s : State) := (s.cfg, s.decN, s.decS0, s.decS1, s.decS2, s.dcnt, s.key, s.kidx, s.ofs)

theorem outsideEnc_eq_iff : s.outsideEnc = t.outsideEnc ↔
    s.cfg = t.cfg ∧ s.decN = t.decN ∧ s.decS0 = t.decS0 ∧ s.decS1 = t.decS1 ∧ s.decS2 = t.decS2 ∧ s.dcnt = t.dcnt ∧
      s.key = t.key ∧ s.kidx = t.kidx ∧ s.ofs = t.ofs := by
  simp only [State.outsideEnc, Prod.mk.injEq]

theorem outsideEnc_of_exec (hi : isEncoderCommand i = true) (h : exec i s = .next t) : t.outsideEnc = s.outsideEnc := by
  obtain ⟨⟨hn, hs0, hs1, hs2, hd⟩, ⟨hkey, hidx, ho⟩, ⟨hcfg, -, -⟩, -⟩ := encoderCommandsFrame i s t hi h
  exact outsideEnc_eq_iff.mpr ⟨hcfg, hn, hs0, hs1, hs2, hd, hkey, hidx, ho⟩

theorem Performs.outsideEnc (hl : ∀ i ∈ l, isEncoderCommand i = true) (h : Performs l s t) :
    t.outsideEnc = s.outsideEnc :=
  h.keeps (fun hu => (congrArg State.outsideEnc hu :)) fun i hi _ _ hc => outsideEnc_of_exec (hl i hi) hc.2.1

theorem isEncoderCommand_of_mem_encode : ∀ i ∈ (Pseudo.encode x).expand, isEncoderCommand i = true := by
  intro i hi
  simp only [Pseudo.expand, List.mem_append, List.mem_singleton, List.mem_map] at hi
  rcases hi with (rfl | ⟨_, -, rfl⟩) | rfl <;> rfl

end Sequences

/-- Settles O54: whole groups leave nothing held, so all of their encoding has been delivered. -/
theorem streamingEncodeEqualsBatch : Obligations.StreamingEncodeEqualsBatch := by
  intro s t x y _ hn hx h ht
  obtain ⟨-, hperf⟩ := execAll_performs (by simp [Pseudo.expand]) h ht
  have hnt : t.encN = 0 := Fin.ext (by rw [hperf.encN_b64ePuts, hn]; simpa using hx)
  have hstream := hperf.conserves_b64ePuts []
  rw [held_of_zero hn, held_of_zero hnt] at hstream
  simp only [List.nil_append, List.append_nil, encText] at hstream
  have hlen : (encText x).length = 4 * (x.length / 3) := by
    rw [encText_length]
    omega
  refine ⟨encText x, outq_of_delivered (execAll_returned h) hstream, ?_, hlen, hnt⟩
  rw [encText_append hx, List.take_left' hlen]

/-- Settles O55: the run performs the commands of ENCODE x, and each of them is of the encoder. -/
theorem encodeRunDeliversEnc : Obligations.EncodeRunDeliversEnc := by
  intro s t l x _ hp hc hrun ht
  obtain ⟨-, hperf, hpend⟩ := run_performs hc (by simp [Pseudo.expand]) hp hrun ht
  obtain ⟨hd, henc⟩ := hperf.encode
  obtain ⟨hcfg, hn, hs0, hs1, hs2, hcnt, hkey, hidx, ho⟩ :=
    outsideEnc_eq_iff.mp (hperf.outsideEnc isEncoderCommand_of_mem_encode)
  exact ⟨hd, henc, ⟨hn, hs0, hs1, hs2, hcnt⟩, ⟨hkey, hidx, ho⟩, hcfg, hpend⟩

end Sys2Proof.Machine
end

section
/-! PROOFS. The decoder's commands: the bytes of a group as numbers, and what each command does
(41_base64_decoder.md R141 to R143). -/

namespace Sys2Proof.Machine

open Sys2Proof

/-! ### The bytes of a group as numbers (R66) -/

section Bytes

/-- Two slot values that meet in a byte: the lower one's bits fill the places the shift of the upper one leaves free. -/
theorem toNat_joinSextets (x y : Sextet) {k m : Nat} (hkm : k + m = 6) :
    (((x.setWidth 16 <<< k) ||| (y.setWidth 16 >>> m)).setWidth 8).toNat = (2 ^ k * x.toNat + y.toNat / 2 ^ m) % 256 := by
  have hx : x.toNat < 2 ^ 6 := x.isLt
  have hy : y.toNat < 2 ^ 6 := y.isLt
  have hlow : y.toNat / 2 ^ m < 2 ^ k := by
    rw [Nat.div_lt_iff_lt_mul (by positivity), ← pow_add, hkm]
    exact hy
  have hk : 2 ^ k ≤ 2 ^ 6 := Nat.pow_le_pow_right (by decide) (by omega)
  have hprod : x.toNat * 2 ^ k < 2 ^ 16 := (Nat.mul_lt_mul_of_lt_of_le hx hk (by decide)).trans (by decide)
  simp only [BitVec.toNat_setWidth, BitVec.toNat_or, BitVec.toNat_shiftLeft, BitVec.toNat_ushiftRight, Nat.shiftRight_eq_div_pow]
  rw [Nat.mod_eq_of_lt (show x.toNat < 2 ^ 16 by omega), Nat.mod_eq_of_lt (show y.toNat < 2 ^ 16 by omega),
    Nat.shiftLeft_eq, Nat.mod_eq_of_lt hprod, ← Nat.shiftLeft_eq, ← Nat.shiftLeft_add_eq_or_of_lt hlow, Nat.shiftLeft_eq,
    Nat.mul_comm]

theorem toNat_outByte1 (s0 s1 : Sextet) : (outByte1 s0 s1).toNat = 4 * s0.toNat + s1.toNat / 16 := by
  have h : 4 * s0.toNat + s1.toNat / 16 < 256 := by omega
  exact (toNat_joinSextets s0 s1 (by decide)).trans (Nat.mod_eq_of_lt h)

theorem toNat_outByte2 (s1 s2 : Sextet) : (outByte2 s1 s2).toNat = (16 * s1.toNat + s2.toNat / 4) % 256 :=
  toNat_joinSextets s1 s2 (by decide)

theorem toNat_outByte3 (s2 s3 : Sextet) : (outByte3 s2 s3).toNat = (64 * s2.toNat + s3.toNat) % 256 := by
  have h := toNat_joinSextets s2 s3 (show 6 + 0 = 6 from rfl)
  rwa [BitVec.ushiftRight_zero, pow_zero, Nat.div_one] at h

end Bytes

/-! ### The effects of the commands -/

section Effects

variable {s : State} {c : Byte} {v : Sextet}

theorem decN_cases (n : Fin 4) : n = 0 ∨ n = 1 ∨ n = 2 ∨ n = 3 := by omega

theorem decPutEffect_of_invalid (hc : dec6 c = none) : decPutEffect c s = { out := [], after := s } := by
  simp [decPutEffect, hc]

theorem decPutEffect_of_valid (hc : dec6 c = some v) : decPutEffect c s = decPutValueEffect v s := by
  simp [decPutEffect, hc]

theorem decPutValueEffect_of_zero (v : Sextet) (h : s.decN = 0) :
    decPutValueEffect v s = { out := [], after := { s with decS0 := v, decN := 1 } } := by
  simp [decPutValueEffect, h]

theorem decPutValueEffect_of_one (v : Sextet) (h : s.decN = 1) :
    decPutValueEffect v s = { out := [], after := { s with decS1 := v, decN := 2 } } := by
  simp [decPutValueEffect, h]

theorem decPutValueEffect_of_two (v : Sextet) (h : s.decN = 2) :
    decPutValueEffect v s = { out := [], after := { s with decS2 := v, decN := 3 } } := by
  simp [decPutValueEffect, h]

theorem decPutValueEffect_of_three (v : Sextet) (h : s.decN = 3) :
    decPutValueEffect v s =
      { out := [outByte1 s.decS0 s.decS1, outByte2 s.decS1 s.decS2, outByte3 s.decS2 v], after := s.clearDec.count 3 } := by
  simp [decPutValueEffect, h]

theorem flushBytes_of_zero (h : s.decN = 0) : flushBytes s = [] := by simp [flushBytes, h]

theorem flushBytes_of_one_or_two (h : s.decN = 1 ∨ s.decN = 2) : flushBytes s = [outByte1 s.decS0 s.decS1] := by
  rcases h with h | h <;> simp [flushBytes, h]

theorem flushBytes_of_three (h : s.decN = 3) :
    flushBytes s = [outByte1 s.decS0 s.decS1, outByte2 s.decS1 s.decS2] := by simp [flushBytes, h]

/-- Emptying a group that is empty and clean, and counting no byte, changes nothing (R32 (b)). -/
theorem clearDec_count_of_zero (h : s.decN = 0) (hc : s.DecClean) : s.clearDec.count 0 = s := by
  obtain ⟨h0, h1, h2⟩ := hc
  have h0 : s.decS0 = 0 := h0 (by simp [h])
  have h1 : s.decS1 = 0 := h1 (by simp [h])
  have h2 : s.decS2 = 0 := h2 (by simp [h])
  cases s
  simp_all [State.clearDec, State.count]

/-- An invalid character is skipped in every state, ERR = 1 included (R142, R206). -/
theorem exec_b64dPut_of_invalid (hc : dec6 c = none) : exec (.b64dPut c) s = .next s := by
  rw [exec, execB64dPut, decPutEffect_of_invalid hc]
  cases hs : s.err with
  | true => exact runEffect_of_faulted hs
  | false => exact runEffect_of_silent hs

theorem exec_b64dPut_of_valid (hc : dec6 c = some v) : exec (.b64dPut c) s = runEffect (decPutValueEffect v s) s := by
  rw [exec, execB64dPut, decPutEffect_of_valid hc]

theorem exec_b64dEnd_of_room {bs : List Byte} (hs : s.err = false) (hbs : flushBytes s = bs) (hroom : bs.length ≤ s.free) :
    exec .b64dEnd s = .next ((s.clearDec.count bs.length).emit bs) := by
  rw [exec, execB64dEnd, hbs]
  exact runEffect_of_room hs hroom

theorem exec_b64dEnd_of_overrun {bs : List Byte} (hs : s.err = false) (hbs : flushBytes s = bs) (hroom : s.free < bs.length) :
    exec .b64dEnd s = .next (s.raiseFault .outOverrun) := by
  rw [exec, execB64dEnd, hbs]
  exact runEffect_of_overrun hs hroom

end Effects

/-- Settles O24: the command has no condition and emits nothing. -/
theorem decInitEmptiesTheGroupAndTheCount : Obligations.DecInitEmptiesTheGroupAndTheCount :=
  ⟨rfl, fun _ hs => runEffect_of_silent hs⟩

/-- Settles O25, by the effect of `B64D.PUT` for each number of slots filled. -/
theorem decPutSkipsHoldsOrEmitsAGroup : Obligations.DecPutSkipsHoldsOrEmitsAGroup := by
  refine fun c => ⟨encode_eq_or_data (.b64dPut c), fun s hs => ⟨exec_b64dPut_of_invalid, fun v hc => ?_⟩⟩
  rw [exec_b64dPut_of_valid hc]
  refine ⟨fun h => ?_, fun h => ?_, fun h => ?_, fun h hroom => ?_, fun h hroom => ?_⟩
  · rw [decPutValueEffect_of_zero v h]
    exact runEffect_of_silent hs
  · rw [decPutValueEffect_of_one v h]
    exact runEffect_of_silent hs
  · rw [decPutValueEffect_of_two v h]
    exact runEffect_of_silent hs
  · rw [decPutValueEffect_of_three v h]
    exact ⟨_, _, _, runEffect_of_room hs hroom, toNat_outByte1 .., toNat_outByte2 .., toNat_outByte3 ..⟩
  · rw [decPutValueEffect_of_three v h]
    exact runEffect_of_overrun hs hroom

/-- Settles O26, by the bytes `B64D.END` flushes for each number of slots filled; with one slot filled DEC_S1 is zero. -/
theorem decEndFlushesThePartialGroup : Obligations.DecEndFlushesThePartialGroup := by
  refine ⟨rfl, fun s hs hc => ⟨fun h => ?_, fun h hroom => ?_, fun h hroom => ?_, ?_⟩⟩
  · rw [exec_b64dEnd_of_room hs (flushBytes_of_zero h) (Nat.zero_le _), State.emit_nil]
    exact congrArg _ (clearDec_count_of_zero h hc)
  · refine ⟨_, exec_b64dEnd_of_room hs (flushBytes_of_one_or_two h) hroom, toNat_outByte1 .., fun h1 => ?_⟩
    have hslot : s.decS1 = 0 := hc.2.1 (by simp [h1])
    rw [toNat_outByte1, hslot]
    rfl
  · exact ⟨_, _, exec_b64dEnd_of_room hs (flushBytes_of_three h) hroom, toNat_outByte1 .., toNat_outByte2 ..⟩
  · rintro (⟨h, hroom⟩ | ⟨h, hroom⟩)
    · exact exec_b64dEnd_of_overrun hs (flushBytes_of_one_or_two h) hroom
    · exact exec_b64dEnd_of_overrun hs (flushBytes_of_three h) hroom

end Sys2Proof.Machine
end

section
/-! PROOFS. The decoding of a whole stream: the round trip (41_base64_decoder.md R146), the number of bytes (R145), the
invalid characters (R147), and that the decoder's commands deliver it in a run with reads between them (R144). -/

namespace Sys2Proof.Machine

open Sys2Proof

/-! ### Decoding an encoding (R146) -/

section RoundTrip

variable (a b c : Byte)

@[simp] theorem dec6_sliceChar (v : Group) (lo : Nat) : dec6 (sliceChar v lo) = some (v.extractLsb' lo 6) := dec6_enc6 _

@[simp] theorem dec6_pad : dec6 pad = none := rfl

/-- The bytes the decoder makes of the slices of a packed group are the bytes packed (R62, R66). -/
@[simp] theorem outByte1_packGroup :
    outByte1 ((packGroup a b c).extractLsb' 18 6) ((packGroup a b c).extractLsb' 12 6) = a := by
  ext i hi
  interval_cases i <;> simp [outByte1, packGroup]

@[simp] theorem outByte2_packGroup :
    outByte2 ((packGroup a b c).extractLsb' 12 6) ((packGroup a b c).extractLsb' 6 6) = b := by
  ext i hi
  interval_cases i <;> simp [outByte2, packGroup]

@[simp] theorem outByte3_packGroup :
    outByte3 ((packGroup a b c).extractLsb' 6 6) ((packGroup a b c).extractLsb' 0 6) = c := by
  ext i hi
  interval_cases i <;> simp [outByte3, packGroup]

theorem decText_encGroup_append (t : List Byte) : decText (encGroup a b c ++ t) = a :: b :: c :: decText t := by
  simp [encGroup_eq_slices, decText, validValues, unpackText]

theorem decText_encLastOne : decText (encLastOne a) = [a] := by
  simp [encLastOne_eq_slices, decText, validValues, List.filterMap_cons, unpackText]

theorem decText_encLastTwo : decText (encLastTwo a b) = [a, b] := by
  simp [encLastTwo_eq_slices, decText, validValues, List.filterMap_cons, unpackText]

end RoundTrip

/-- Settles O49, by induction over the groups of the input. -/
theorem decodeOfEncodeIsTheInput : Obligations.DecodeOfEncodeIsTheInput := by
  intro x
  induction x using encText.induct with
  | case1 => rfl
  | case2 a => exact decText_encLastOne a
  | case3 a b => exact decText_encLastTwo a b
  | case4 a b c x ih => rw [encText, decText_encGroup_append, ih]

/-! ### The number of decoded bytes (R145) -/

/-- A last group of r values gives 0, 1, 1 or 2 bytes, which is half of r + 1. -/
theorem unpackText_length (vs : List Sextet) : (unpackText vs).length = 3 * (vs.length / 4) + (vs.length % 4 + 1) / 2 := by
  induction vs using unpackText.induct with
  | case1 | case2 | case3 | case4 => simp [unpackText]
  | case5 s0 s1 s2 s3 vs ih =>
    simp only [unpackText, List.length_append, List.length_cons, List.length_nil, ih]
    omega

theorem validValues_length (t : List Byte) : (validValues t).length = (t.filter fun c => (dec6 c).isSome).length := by
  rw [validValues, List.length_filterMap_eq_countP, List.countP_eq_length_filter]

/-- Settles O52: the values unpacked are as many as the valid characters. -/
theorem decodedByteCount : Obligations.DecodedByteCount := by
  intro t m
  rw [decText, unpackText_length, validValues_length]
  change 3 * (m / 4) + (m % 4 + 1) / 2 = _
  split_ifs <;> omega

/-! ### Invalid characters (R147) -/

theorem validValues_filter (t : List Byte) : validValues (t.filter fun c => (dec6 c).isSome) = validValues t := by
  rw [validValues, List.filterMap_filter]
  refine List.filterMap_congr fun c _ => ?_
  cases dec6 c <;> rfl

/-- Streaming a text does what streaming its valid characters does. -/
theorem execAll_b64dPuts_filter (t : List Byte) (s : State) :
    execAll ((t.filter fun c => (dec6 c).isSome).map .b64dPut) s = execAll (t.map .b64dPut) s := by
  induction t generalizing s with
  | nil => rfl
  | cons c t ih =>
    cases hc : dec6 c with
    | none =>
      rw [List.filter_cons_of_neg (by simp [hc]), ih, List.map_cons, execAll, exec_b64dPut_of_invalid hc]
    | some v =>
      rw [List.filter_cons_of_pos (by simp [hc]), List.map_cons, List.map_cons, execAll, execAll]
      simp only [ih]

/-- Settles O53: both texts do what their valid characters alone do. -/
theorem invalidCharactersAreTransparent : Obligations.InvalidCharactersAreTransparent := by
  refine fun t t' h => ⟨?_, fun s => ?_⟩
  · rw [decText, ← validValues_filter, h, validValues_filter, decText]
  · rw [Pseudo.expand, ← execAll_b64dPuts_filter, h, execAll_b64dPuts_filter, Pseudo.expand]

/-! ### The values held in the group buffer (R22) -/

/-- The values of the current group received so far, oldest first: the first DEC_N of the three slots (R22). -/
def State.slots (s : State) : List Sextet := [s.decS0, s.decS1, s.decS2].take s.decN

section Stream

variable {s t u : State} {c : Byte} {x : List Byte} {vs ws : List Sextet} {bs cs : List Byte}

theorem slots_of_zero (h : s.decN = 0) : s.slots = [] := by simp [State.slots, h]

theorem slots_of_one (h : s.decN = 1) : s.slots = [s.decS0] := by simp [State.slots, h]

theorem slots_of_two (h : s.decN = 2) : s.slots = [s.decS0, s.decS1] := by simp [State.slots, h]

theorem slots_of_three (h : s.decN = 3) : s.slots = [s.decS0, s.decS1, s.decS2] := by simp [State.slots, h]

/-- A slot alone is decoded as if a zero one followed it (R143, R144). -/
theorem outByte1_zero (s0 : Sextet) : outByte1 s0 0 = s0.setWidth 8 <<< 2 := by
  ext i hi
  interval_cases i <;> simp [outByte1]

/-- Where the empty slots are zero, `B64D.END` flushes the decoding of the values held (R143, R144). -/
theorem flushBytes_of_clean (hc : s.DecClean) : flushBytes s = unpackText s.slots := by
  rcases decN_cases s.decN with h | h | h | h
  · rw [flushBytes_of_zero h, slots_of_zero h]; rfl
  · have hslot : s.decS1 = 0 := hc.2.1 (by simp [h])
    rw [flushBytes_of_one_or_two (.inl h), slots_of_one h, hslot, outByte1_zero]; rfl
  · rw [flushBytes_of_one_or_two (.inr h), slots_of_two h]; rfl
  · rw [flushBytes_of_three h, slots_of_three h]; rfl

/-! ### What one command of the decoder does to the stream -/

/-- From the one state to the other the values have gone through the group buffer and the bytes have come out: they are delivered
and counted in DCNT, they and the decoding of what is then held make up the decoding of the stream so far, however it goes on, and
the empty slots stay zero (R23, R32 (b), R144). -/
structure Decodes (vs : List Sextet) (bs : List Byte) (s t : State) : Prop where
  delivered : t.delivered = s.delivered ++ bs
  dcnt      : t.dcnt = s.dcnt + BitVec.ofNat 32 bs.length
  conserves : ∀ ws, bs ++ unpackText (t.slots ++ ws) = unpackText (s.slots ++ (vs ++ ws))
  clean     : s.DecClean → t.DecClean

/-- What the host does between two commands is no part of the stream. -/
theorem Decodes.of_unread_eq (h : t.unread = s.unread) : Decodes [] [] s t where
  delivered := (delivered_eq_of_unread_eq h).trans (List.append_nil _).symm
  dcnt := (congrArg State.dcnt h :).trans (BitVec.add_zero _).symm
  conserves ws := (congrArg (fun r => unpackText (State.slots r ++ ws)) h :)
  clean := (congrArg State.DecClean h :).mpr

theorem Decodes.trans (h : Decodes vs bs s t) (h' : Decodes ws cs t u) : Decodes (vs ++ ws) (bs ++ cs) s u where
  delivered := by rw [h'.delivered, h.delivered, List.append_assoc]
  dcnt := by rw [h'.dcnt, h.dcnt, List.length_append, BitVec.ofNat_add, BitVec.add_assoc]
  conserves ws' := by rw [List.append_assoc, h'.conserves, h.conserves, List.append_assoc]
  clean := h'.clean ∘ h.clean

theorem clearDec_clean (s : State) : s.clearDec.DecClean := ⟨fun _ => rfl, fun _ => rfl, fun _ => rfl⟩

/-- A valid character whose bytes fit: it is held, or it completes a group, whose bytes come out (R142). -/
theorem decPutValueEffect_decodes (v : Sextet) (s : State) :
    Decodes [v] (decPutValueEffect v s).out s ((decPutValueEffect v s).after.emit (decPutValueEffect v s).out) := by
  rcases decN_cases s.decN with h | h | h | h
  · rw [decPutValueEffect_of_zero v h]
    refine ⟨delivered_emit .., (BitVec.add_zero _).symm, fun ws => ?_, fun ⟨_, h1, h2⟩ => ?_⟩
    · rw [slots_of_zero h]; rfl
    · exact ⟨nofun, fun _ => h1 (by simp [h]), fun _ => h2 (by simp [h])⟩
  · rw [decPutValueEffect_of_one v h]
    refine ⟨delivered_emit .., (BitVec.add_zero _).symm, fun ws => ?_, fun ⟨_, _, h2⟩ => ?_⟩
    · rw [slots_of_one h]; rfl
    · exact ⟨nofun, nofun, fun _ => h2 (by simp [h])⟩
  · rw [decPutValueEffect_of_two v h]
    refine ⟨delivered_emit .., (BitVec.add_zero _).symm, fun ws => ?_, fun _ => ⟨nofun, nofun, nofun⟩⟩
    rw [slots_of_two h]; rfl
  · rw [decPutValueEffect_of_three v h]
    refine ⟨delivered_emit .., rfl, fun ws => ?_, fun _ => clearDec_clean s⟩
    rw [slots_of_three h]; rfl

theorem Completes.decodes_b64dPut (h : Completes (.b64dPut c) s t) : ∃ bs, Decodes (validValues [c]) bs s t := by
  obtain ⟨hs, h, ht⟩ := h
  cases hc : dec6 c with
  | none =>
    cases (exec_b64dPut_of_invalid hc).symm.trans h
    rw [validValues, List.filterMap_cons_none hc]
    exact ⟨[], .of_unread_eq rfl⟩
  | some v =>
    rw [exec_b64dPut_of_valid hc] at h
    rw [validValues, List.filterMap_cons_some hc, runEffect_completes hs h ht]
    exact ⟨_, decPutValueEffect_decodes v s⟩

theorem Completes.unread_b64dInit (h : Completes .b64dInit s t) : t.unread = { s.unread.clearDec with dcnt := 0 } := by
  obtain ⟨hs, h, -⟩ := h
  cases (runEffect_of_silent hs).symm.trans h
  rfl

/-- `B64D.END` delivers and counts the decoding of the values held, and empties the group (R143). -/
theorem Completes.eq_b64dEnd (hc : s.DecClean) (h : Completes .b64dEnd s t) :
    t = (s.clearDec.count (unpackText s.slots).length).emit (unpackText s.slots) := by
  obtain ⟨hs, h, ht⟩ := h
  rw [exec, execB64dEnd, flushBytes_of_clean hc] at h
  exact runEffect_completes hs h ht

/-! ### Sequences -/

theorem Performs.decodes_b64dPuts (h : Performs (x.map .b64dPut) s t) : ∃ bs, Decodes (validValues x) bs s t := by
  induction x generalizing s with
  | nil => exact ⟨[], .of_unread_eq h⟩
  | cons c x ih =>
    obtain ⟨u, v, hu, hv, h⟩ := h
    obtain ⟨bs, hc⟩ := hv.decodes_b64dPut
    obtain ⟨cs, hx⟩ := ih h
    have hsplit : validValues (c :: x) = validValues [c] ++ validValues x := List.filterMap_append (l := [c])
    exact ⟨bs ++ cs, hsplit ▸ (Decodes.of_unread_eq hu).trans (hc.trans hx)⟩

/-- `B64D.END` after values put into an empty group: all of their decoding has come out, and the group is empty (R143, R144). -/
theorem Decodes.b64dEnd (h : Decodes vs bs s u) (hslots : s.slots = []) (hc : s.DecClean) (hend : Completes .b64dEnd u t) :
    t.delivered = s.delivered ++ unpackText vs ∧ t.dcnt = s.dcnt + BitVec.ofNat 32 (unpackText vs).length ∧
      t.decN = 0 ∧ t.decS0 = 0 ∧ t.decS1 = 0 ∧ t.decS2 = 0 := by
  have hstream := h.conserves []
  rw [hslots, List.append_nil, List.append_nil, List.nil_append] at hstream
  have hlast : t.delivered = u.delivered ++ unpackText u.slots ∧ t.dcnt = u.dcnt + BitVec.ofNat 32 (unpackText u.slots).length ∧
      t.decN = 0 ∧ t.decS0 = 0 ∧ t.decS1 = 0 ∧ t.decS2 = 0 := by
    rw [hend.eq_b64dEnd (h.clean hc)]
    exact ⟨delivered_emit .., rfl, rfl, rfl, rfl, rfl⟩
  rwa [h.delivered, h.dcnt, List.append_assoc, BitVec.add_assoc, ← BitVec.ofNat_add, ← List.length_append, hstream] at hlast

/-- `DECODE x` delivers Dec(x), counts it in DCNT, and leaves the group empty (R12, R144). -/
theorem Performs.decode (h : Performs (Pseudo.decode x).expand s t) :
    t.delivered = s.delivered ++ decText x ∧ t.dcnt = BitVec.ofNat 32 (decText x).length ∧
      t.decN = 0 ∧ t.decS0 = 0 ∧ t.decS1 = 0 ∧ t.decS2 = 0 := by
  obtain ⟨v, h, a, b, ha, hend, ht⟩ := h.of_append
  obtain ⟨u, ⟨c, e, hc, hinit, hu⟩, hputs⟩ := h.of_append
  have hinit : u.unread = { s.unread.clearDec with dcnt := 0 } := by rw [hu, hinit.unread_b64dInit, hc]
  have hdel : u.delivered = s.delivered := (congrArg State.outq hinit :)
  have hcnt : u.dcnt = 0#32 := (congrArg State.dcnt hinit :)
  have hslots : u.slots = [] := (congrArg State.slots hinit :)
  have hclean : u.DecClean := (congrArg State.DecClean hinit :).mpr (clearDec_clean s.unread)
  obtain ⟨bs, hputs⟩ := hputs.decodes_b64dPuts
  have hx : Decodes (validValues x) bs u a := by simpa using hputs.trans (.of_unread_eq ha)
  obtain ⟨hbd, hbc, hn, h0, h1, h2⟩ := hx.b64dEnd hslots hclean hend
  rw [hdel] at hbd
  rw [hcnt, BitVec.zero_add] at hbc
  exact ⟨(delivered_eq_of_unread_eq ht).trans hbd, (congrArg State.dcnt ht :).trans hbc, (congrArg State.decN ht :).trans hn,
    (congrArg State.decS0 ht :).trans h0, (congrArg State.decS1 ht :).trans h1, (congrArg State.decS2 ht :).trans h2⟩

end Stream

/-! ### What the decoder leaves to the other engines -/

section Frame

variable {i : Instr} {l : List Instr} {s t : State} {x : List Byte}

/-- The parameters and the elements of the other engines: what B64D commands leave unchanged (R2, R140). -/
def State.outsideDec (s : State) := (s.cfg, s.encN, s.encB0, s.encB1, s.key, s.kidx, s.ofs)

theorem outsideDec_eq_iff : s.outsideDec = t.outsideDec ↔
    s.cfg = t.cfg ∧ s.encN = t.encN ∧ s.encB0 = t.encB0 ∧ s.encB1 = t.encB1 ∧ s.key = t.key ∧ s.kidx = t.kidx ∧
      s.ofs = t.ofs := by
  simp only [State.outsideDec, Prod.mk.injEq]

theorem outsideDec_of_exec (hi : isDecoderCommand i = true) (h : exec i s = .next t) : t.outsideDec = s.outsideDec := by
  obtain ⟨⟨hn, hb0, hb1⟩, ⟨hkey, hidx, ho⟩, ⟨hcfg, -, -⟩, -⟩ := decoderCommandsFrame i s t hi h
  exact outsideDec_eq_iff.mpr ⟨hcfg, hn, hb0, hb1, hkey, hidx, ho⟩

theorem Performs.outsideDec (hl : ∀ i ∈ l, isDecoderCommand i = true) (h : Performs l s t) :
    t.outsideDec = s.outsideDec :=
  h.keeps (fun hu => (congrArg State.outsideDec hu :)) fun i hi _ _ hc => outsideDec_of_exec (hl i hi) hc.2.1

theorem isDecoderCommand_of_mem_decode : ∀ i ∈ (Pseudo.decode x).expand, isDecoderCommand i = true := by
  intro i hi
  simp only [Pseudo.expand, List.mem_append, List.mem_singleton, List.mem_map] at hi
  rcases hi with (rfl | ⟨_, -, rfl⟩) | rfl <;> rfl

end Frame

/-- Settles O56: the run performs the commands of DECODE x, and each of them is of the decoder. -/
theorem decodeRunDeliversDec : Obligations.DecodeRunDeliversDec := by
  intro s t l x _ hp hc hrun ht
  obtain ⟨-, hperf, hpend⟩ := run_performs hc (by simp [Pseudo.expand]) hp hrun ht
  obtain ⟨hd, hcnt, hdec⟩ := hperf.decode
  obtain ⟨hcfg, hn, hb0, hb1, hkey, hidx, ho⟩ :=
    outsideDec_eq_iff.mp (hperf.outsideDec isDecoderCommand_of_mem_decode)
  exact ⟨hd, hcnt, hdec, ⟨hn, hb0, hb1⟩, ⟨hkey, hidx, ho⟩, hcfg, hpend⟩

end Sys2Proof.Machine
end

section
/-! PROOFS. The key store's commands: when KEY_OVERFLOW is raised, and what `KEY.CLR` and `KEY.PUT` do
(42_key_store.md R161, R162). -/

namespace Sys2Proof.Machine

open Sys2Proof

section Effects

variable {s : State}

theorem keyStoreCheck_of_full (h : s.key.length = s.cfg.keyMax) : keyStoreCheck s = some .keyOverflow := if_pos h

theorem keyStoreCheck_of_not_full (h : s.key.length ≠ s.cfg.keyMax) : keyStoreCheck s = none := if_neg h

theorem exec_keyPut_of_not_full (k : Byte) (hs : s.err = false) (h : s.key.length ≠ s.cfg.keyMax) :
    exec (.keyPut k) s = .next { s.appendKey k with kidx := 0 } := by
  rw [exec, execKeyPut, keyStoreCheck_of_not_full h]
  exact attempt_of_room hs (Nat.zero_le _)

theorem exec_keyPut_of_full (k : Byte) (hs : s.err = false) (h : s.key.length = s.cfg.keyMax) :
    exec (.keyPut k) s = .next (s.raiseFault .keyOverflow) := by
  rw [exec, execKeyPut, keyStoreCheck_of_full h]
  exact attempt_of_own hs

end Effects

/-- Settles O27: the command has no condition and emits nothing. -/
theorem keyClrEmptiesTheKey : Obligations.KeyClrEmptiesTheKey :=
  ⟨rfl, fun _ hs => runEffect_of_silent hs⟩

/-- Settles O28: the command's one condition is that the key store has a place left, and it emits nothing. -/
theorem keyPutAppendsOrOverflows : Obligations.KeyPutAppendsOrOverflows :=
  fun k => ⟨encode_eq_or_data (.keyPut k), fun _ hs => ⟨exec_keyPut_of_not_full k hs, exec_keyPut_of_full k hs⟩⟩

end Sys2Proof.Machine
end

section
/-! PROOFS. The cipher's functions: the decision table (43_braid_cipher.md R171, R172, R181), the adder (R177), and the round
trips of BrE and BrD (R180). -/

namespace Sys2Proof.Machine

open Sys2Proof

/-! ### The decision table (R172) -/

section Table

variable {code : Byte} {l : Nat}

theorem offset_of_zero (h : remainder code l = 0) : offset code l = .plus3 := if_pos h

theorem offset_of_one (h : remainder code l = 1) : offset code l = .minus2 := by simp [offset, h]

theorem offset_of_even (h2 : 2 ≤ remainder code l) (h : remainder code l % 2 = 0) : offset code l = .minus1 := by
  have h0 : remainder code l ≠ 0 := by omega
  have h1 : remainder code l ≠ 1 := by omega
  simp [offset, h0, h1, h]

theorem offset_of_odd (h2 : 2 ≤ remainder code l) (h : remainder code l % 2 = 1) : offset code l = .plus2 := by
  have h0 : remainder code l ≠ 0 := by omega
  have h1 : remainder code l ≠ 1 := by omega
  simp [offset, h0, h1, h]

/-- The defining equation of R171 has one solution. -/
theorem remainder_eq {q m : Nat} (hm : m < l) (h : code.toNat = q * l + m) : remainder code l = m := by
  rw [remainder, h, Nat.mul_add_mod_of_lt hm]

/-- A code below the key length is its own remainder. -/
theorem remainder_of_lt (h : code.toNat < l) : remainder code l = code.toNat := Nat.mod_eq_of_lt h

theorem remainder_lt (code : Byte) (h : 0 < l) : remainder code l < l := Nat.mod_lt _ h

end Table

/-- Settles O46: the remainder is the m of the defining equation, and each m has its row. -/
theorem decisionTableOverTheRemainder : Obligations.DecisionTableOverTheRemainder := by
  intro code l q m hm h
  obtain rfl : remainder code l = m := remainder_eq hm h
  exact ⟨fun h0 => congrArg Offset.value (offset_of_zero h0), fun h1 => congrArg Offset.value (offset_of_one h1),
    fun h2 he => congrArg Offset.value (offset_of_even h2 he), fun h2 ho => congrArg Offset.value (offset_of_odd h2 ho)⟩

/-! ### The offsets of a key length (R181) -/

section KeyLength

theorem offset_one (code : Byte) : offset code 1 = .plus3 := offset_of_zero (Nat.mod_one _)

theorem offset_two (code : Byte) : offset code 2 = .plus3 ∨ offset code 2 = .minus2 :=
  (Nat.mod_two_eq_zero_or_one code.toNat).imp offset_of_zero offset_of_one

/-- The one remainder of 3 past the first two rows is even. -/
theorem offset_three_ne_plus2 (code : Byte) : offset code 3 ≠ .plus2 := by
  have hlt : remainder code 3 < 3 := remainder_lt code (by decide)
  rcases (by omega : remainder code 3 = 0 ∨ remainder code 3 = 1 ∨ remainder code 3 = 2) with h | h | h
  · rw [offset_of_zero h]; decide
  · rw [offset_of_one h]; decide
  · rw [offset_of_even h.ge (by rw [h])]; decide

variable {l : Nat}

theorem offset_code_zero (h : 1 ≤ l) : offset 0x00#8 l = .plus3 := offset_of_zero (remainder_of_lt h)

theorem offset_code_one (h : 2 ≤ l) : offset 0x01#8 l = .minus2 := offset_of_one (remainder_of_lt h)

theorem offset_code_two (h : 3 ≤ l) : offset 0x02#8 l = .minus1 := by
  have hr : remainder 0x02#8 l = 2 := remainder_of_lt h
  exact offset_of_even hr.ge (by rw [hr])

theorem offset_code_three (h : 4 ≤ l) : offset 0x03#8 l = .plus2 := by
  have hr : remainder 0x03#8 l = 3 := remainder_of_lt h
  exact offset_of_odd (by rw [hr]; decide) (by rw [hr])

/-- The codes 0 to 3 give the four offsets where the key is long enough to tell them apart. -/
theorem exists_offset_eq (h : 4 ≤ l) (o : Offset) : ∃ code, offset code l = o := by
  cases o with
  | plus3 => exact ⟨_, offset_code_zero (by omega)⟩
  | minus2 => exact ⟨_, offset_code_one (by omega)⟩
  | minus1 => exact ⟨_, offset_code_two (by omega)⟩
  | plus2 => exact ⟨_, offset_code_three h⟩

/-- Positions a key length apart read the same key byte. -/
theorem braidOffset_add_length {k : List Byte} (hk : k ≠ []) {p : Nat} (hp : 1 ≤ p) :
    braidOffset k hk (p + k.length) = braidOffset k hk p := by
  have hmod : (p + k.length - 1) % k.length = (p - 1) % k.length := by
    rw [Nat.sub_add_comm hp, Nat.add_mod_right]
  simp only [braidOffset, hmod]

end KeyLength

/-- Settles O48: which remainders a key length has, and the period of the key byte read. -/
theorem offsetsOfAKeyLength : Obligations.OffsetsOfAKeyLength :=
  ⟨offset_one, offset_two, offset_three_ne_plus2, fun _ h => exists_offset_eq h, fun _ => offset_code_zero,
    fun _ => offset_code_one, fun _ hk _ => braidOffset_add_length hk⟩

/-! ### The adder (R177) -/

section Adder

variable (b : Byte) (o : Offset)

theorem addOffset_eq_add : addOffset b o = b + o.sext8 := by
  rw [addOffset, BitVec.ofInt_add, BitVec.ofInt_natCast, BitVec.ofNat_toNat, BitVec.setWidth_eq, Offset.sext8]

theorem subOffset_eq_sub : subOffset b o = b - o.sext8 := by
  rw [subOffset, Int.sub_eq_add_neg, BitVec.ofInt_add, BitVec.ofInt_natCast, BitVec.ofNat_toNat, BitVec.setWidth_eq,
    BitVec.ofInt_neg, BitVec.sub_eq_add_neg, Offset.sext8]

/-- The byte of an integer is its residue modulo 256. -/
theorem toNat_ofInt_byte (i : Int) : ((BitVec.ofInt 8 i).toNat : Int) = i % 256 := by
  rw [BitVec.toNat_ofInt]
  exact Int.toNat_of_nonneg (Int.emod_nonneg i (by decide))

theorem addOffset_toNat : ((addOffset b o).toNat : Int) = ((b.toNat : Int) + o.value) % 256 := toNat_ofInt_byte _

theorem subOffset_toNat : ((subOffset b o).toNat : Int) = ((b.toNat : Int) - o.value) % 256 := toNat_ofInt_byte _

theorem subOffset_addOffset : subOffset (addOffset b o) o = b := by
  rw [subOffset_eq_sub, addOffset_eq_add, BitVec.add_sub_cancel]

theorem addOffset_subOffset : addOffset (subOffset b o) o = b := by
  rw [subOffset_eq_sub, addOffset_eq_add, BitVec.sub_add_cancel]

/-- Subtracting adds the two's complement of the offset. -/
theorem subOffset_eq_add : subOffset b o = b + BitVec.ofNat 8 (256 - o.sext8.toNat) := by
  rw [subOffset_eq_sub, BitVec.sub_eq_add_neg]
  rfl

end Adder

/-- Settles O47: 8-bit addition and subtraction are those of integers modulo 256. -/
theorem adderWrapsModulo256 : Obligations.AdderWrapsModulo256 :=
  ⟨fun m o => ⟨addOffset_eq_add m o, addOffset_toNat m o⟩, fun c o => ⟨subOffset_eq_add c o, subOffset_toNat c o⟩,
    fun c => ⟨subOffset_eq_add c .plus3, subOffset_eq_add c .minus2, subOffset_eq_add c .minus1, subOffset_eq_add c .plus2⟩⟩

/-! ### BrE and BrD (R179, R180) -/

section Text

variable {f g : Byte → Offset → Byte} {k : List Byte} (hk : k ≠ []) (p : Nat) (x : List Byte)

theorem braidFrom_length : (braidFrom f k hk p x).length = x.length := by
  induction x generalizing p with
  | nil => rfl
  | cons b x ih => rw [braidFrom, List.length_cons, ih, List.length_cons]

/-- Both directions give a byte the offset of its position, so one undoes the other where it undoes it on each byte. -/
theorem braidFrom_braidFrom (hgf : ∀ b o, g (f b o) o = b) : braidFrom g k hk p (braidFrom f k hk p x) = x := by
  induction x generalizing p with
  | nil => rfl
  | cons b x ih => rw [braidFrom, braidFrom, hgf, ih]

end Text

/-- Settles O50: adding and subtracting an offset undo each other. -/
theorem braidRoundTrip : Obligations.BraidRoundTrip :=
  fun _ hk x => ⟨braidFrom_braidFrom hk 1 x subOffset_addOffset, braidFrom_braidFrom hk 1 x addOffset_subOffset,
    braidFrom_length hk 1 x, braidFrom_length hk 1 x⟩

end Sys2Proof.Machine
end

section
/-! PROOFS. The cipher's commands: their faults and what each of them does (43_braid_cipher.md R173 to R176), and that a run of
its data commands delivers the cipher (R179). -/

namespace Sys2Proof.Machine

open Sys2Proof

/-! ### The commands that read the key (R174 to R176) -/

section Commands

variable {s : State} {f : Offset → Byte}

theorem needsKey_of_no_key (h : s.key = []) : needsKey s = some .noKey := if_pos (List.length_eq_zero_iff.mpr h)

theorem needsKey_of_key (h : s.key ≠ []) : needsKey s = none := if_neg (mt List.length_eq_zero_iff.mp h)

/-- A key byte at KIDX is a byte of a key that is loaded. -/
theorem key_ne_nil_of_kidx_lt (h : s.kidx < s.key.length) : s.key ≠ [] := List.ne_nil_of_length_pos (Nat.zero_lt_of_lt h)

theorem braidData_of_no_key (hs : s.err = false) (h : s.key = []) : braidData f s = .next (s.raiseFault .noKey) := by
  rw [braidData, needsKey_of_no_key h]
  exact attempt_of_own hs

theorem braidData_of_full (hs : s.err = false) (h : s.key ≠ []) (hfull : s.free < 1) :
    braidData f s = .next (s.raiseFault .outOverrun) := by
  rw [braidData, needsKey_of_key h]
  exact attempt_of_overrun hs hfull

theorem braidData_of_room (hs : s.err = false) (h : s.kidx < s.key.length) (hroom : 1 ≤ s.free) :
    braidData f s =
      .next ({ s with ofs := (offset s.key[s.kidx] s.keylen).sext8, kidx := nextKidx s }.emit
        [f (offset s.key[s.kidx] s.keylen)]) := by
  rw [braidData, needsKey_of_key (key_ne_nil_of_kidx_lt h), attempt_of_room hs hroom, withKeyByte_of_lt h]

theorem exec_brdOfs_of_no_key (hs : s.err = false) (h : s.key = []) : exec .brdOfs s = .next (s.raiseFault .noKey) := by
  rw [exec, execBrdOfs, needsKey_of_no_key h]
  exact attempt_of_own hs

theorem exec_brdOfs_of_lt (hs : s.err = false) (h : s.kidx < s.key.length) :
    exec .brdOfs s = .next { s with ofs := (offset s.key[s.kidx] s.keylen).sext8 } := by
  rw [exec, execBrdOfs, needsKey_of_key (key_ne_nil_of_kidx_lt h), attempt_of_room hs (Nat.zero_le _), withKeyByte_of_lt h]

end Commands

/-- Settles O29: the command has no condition and emits nothing. -/
theorem brdInitRestartsThePosition : Obligations.BrdInitRestartsThePosition :=
  ⟨rfl, fun _ hs => runEffect_of_silent hs⟩

/-- Settles O30: what a data command of the cipher does, with the sum of R177. -/
theorem brdEncAddsTheOffset : Obligations.BrdEncAddsTheOffset :=
  fun m => ⟨encode_eq_or_data (.brdEnc m), fun _ hs => ⟨braidData_of_no_key hs, braidData_of_full hs,
    fun h hroom => ⟨_, braidData_of_room hs h hroom, addOffset_toNat m _⟩⟩⟩

/-- Settles O31: what a data command of the cipher does, with the difference of R177. -/
theorem brdDecSubtractsTheOffset : Obligations.BrdDecSubtractsTheOffset :=
  fun c => ⟨encode_eq_or_data (.brdDec c), fun _ hs => ⟨braidData_of_no_key hs, braidData_of_full hs,
    fun h hroom => ⟨_, braidData_of_room hs h hroom, subOffset_toNat c _⟩⟩⟩

/-- Settles O32: the command's one condition is a key, and it emits nothing. -/
theorem brdOfsRecordsTheOffset : Obligations.BrdOfsRecordsTheOffset :=
  ⟨rfl, fun _ hs => ⟨exec_brdOfs_of_no_key hs, exec_brdOfs_of_lt hs⟩⟩

/-! ### Runs (R179) -/

/-- A run that writes the data commands of x from position 1, with reads between them, delivers the text made from there on. -/
theorem run_braid {c : Byte → Instr} {f : Byte → Offset → Byte} (hc : ∀ b s, exec (c b) s = braidData (f b) s)
    (hrst : ∀ b, c b ≠ .rst) {s t : State} (hk : s.key ≠ []) (hi : s.kidx = 0) {x : List Byte} {as : List HostAccess}
    (hp : s.pending = as) (hl : Carries as (x.map c)) (h : Host.Core.run core as.length s = .next t) (ht : t.err = false) :
    t.delivered = s.delivered ++ braidFrom f s.key hk 1 x ∧ t.kidx = x.length % s.key.length ∧ t.key = s.key := by
  obtain ⟨-, hperf, -⟩ := run_performs hl (by simp [hrst]) hp h ht
  have hbraid := hperf.braid hc hk (n := 0) rfl (hi.trans (Nat.zero_mod _).symm)
  rwa [Nat.zero_add, Nat.zero_add] at hbraid

/-- Settles O57: BRD.ENC and BRD.DEC are the data commands of the adder's two functions. -/
theorem braidRunDeliversTheCipher : Obligations.BraidRunDeliversTheCipher := by
  intro s t l x hk _ hi hp hrun ht
  exact ⟨fun hc => run_braid (c := .brdEnc) (f := addOffset) (fun _ _ => rfl) nofun hk hi hp hc hrun ht,
    fun hc => run_braid (c := .brdDec) (f := subOffset) (fun _ _ => rfl) nofun hk hi hp hc hrun ht⟩

end Sys2Proof.Machine
end

section
/-! PROOFS. The system commands `NOP` and `RST` (44_system_commands.md R190, R191). -/

namespace Sys2Proof.Machine

open Sys2Proof

/-- Settles O19: while ERR = 1 the command is ignored, and else it has no condition, emits nothing and leaves the state. -/
theorem nopChangesNothing : Obligations.NopChangesNothing := by
  refine ⟨rfl, fun s => ?_⟩
  cases hs : s.err with
  | true => exact exec_of_faulted nofun hs
  | false => exact runEffect_of_silent hs

/-- Settles O20: by the round trip only the word of `RST` decodes to it, and its execution does not check ERR. -/
theorem rstResetsEveryElement : Obligations.RstResetsEveryElement :=
  ⟨fun _ => decode_eq_legal_iff.trans eq_comm, fun _ => rfl⟩

end Sys2Proof.Machine
end

section
/-! PROOFS. Fault entry and the faulted unit (60_exceptions.md R200 to R206): the illegal words, what is ignored while ERR = 1,
and which command meets which fault. -/

namespace Sys2Proof.Machine

open Sys2Proof

/-! ### Illegal words and the faulted unit (R95, R201, R206) -/

section Words

variable {s : State} {v : Word} {rest : List HostAccess}

/-- Each kind of illegal word of R95 fails one of the checks of R94. -/
theorem not_wf_of_illegal_kind
    (h : v.toNat / 4096 ≠ 0 ∨ (v.toNat / 256) % 16 = 0xE ∨ (v.toNat / 256) % 16 = 0xF ∨
      ((v.toNat / 256) % 16 ∈ [0x0, 0x1, 0x2, 0x4, 0x5, 0x7, 0x8, 0xA, 0xD] ∧ v.toNat % 256 ≠ 0)) :
    ¬ (fieldsOf v).wf = true := by
  rw [fieldsOf_wf_iff]
  rintro ⟨hrsv, hop, hdata⟩
  have hmod : (v.toNat / 256) % 16 = v.toNat / 256 := Nat.mod_eq_of_lt (hop.trans (by decide))
  rw [hmod] at h
  rcases h with h | h | h | ⟨hplain, h⟩
  · exact h hrsv
  · omega
  · omega
  · exact hdata.elim (of_mem_plainOpcodes hplain).2 h

/-- The step that writes an illegal word to CMD is the check of ILLEGAL, with nothing to run after it (R200, R201). -/
theorem step_of_illegal {w : IllegalWord} (hp : s.pending = .write 0 v :: rest) (hv : decode v = .illegal w) :
    step s = attempt (some .illegal) 0 (.next { s with pending := rest }) { s with pending := rest } := by
  rw [step_of_pending hp, access, hostWrite, HostReg.ofNumber, runWord, hv]

/-- A faulted unit ignores every word that does not decode to `RST` (R206). -/
theorem step_of_faulted (hs : s.err = true) (hp : s.pending = .write 0 v :: rest) (hv : decode v ≠ .legal .rst) :
    step s = .next { s with pending := rest } := by
  cases hd : decode v with
  | illegal w => exact (step_of_illegal hp hd).trans (attempt_of_faulted hs)
  | legal i =>
    have hi : i ≠ .rst := fun hi => hv (hi ▸ hd)
    exact (stepRunsTheWrittenCommand s v i rest hp hd).trans (exec_of_faulted hi hs)

/-- The register numbers up to 7 have a register each (R40). -/
theorem exists_ofNumber_eq {r : Nat} (h : r ≤ 7) : ∃ g, HostReg.ofNumber r = some g := by
  interval_cases r <;> exact ⟨_, rfl⟩

end Words

/-- Settles O7: a word of each kind is illegal, and ILLEGAL is raised as any fault is. -/
theorem illegalWordRaisesIllegal : Obligations.IllegalWordRaisesIllegal := by
  intro s v rest hp hkind
  obtain ⟨w, hv⟩ := exists_illegal_of_not_wf (not_wf_of_illegal_kind hkind)
  rw [step_of_illegal hp hv]
  exact ⟨fun hs => attempt_of_own hs, fun hs => attempt_of_faulted hs⟩

/-- Settles O8: 0x00000100 alone decodes to `RST`, and a read leaves the flags. -/
theorem faultedUnitIgnoresAllButRst : Obligations.FaultedUnitIgnoresAllButRst := by
  obtain ⟨hword, hreset⟩ := rstResetsEveryElement
  intro s rest hs
  refine ⟨fun v hp hv => step_of_faulted hs hp (mt (hword v).mp hv), fun hp => ?_, fun r hr hp => ?_⟩
  · rw [stepRunsTheWrittenCommand s _ .rst rest hp ((hword _).mpr rfl), hreset]
    exact ⟨_, rfl, rfl, rfl⟩
  · obtain ⟨g, hg⟩ := exists_ofNumber_eq hr
    exact ⟨_, step_read hp hg, by simp [hs], by simp⟩

/-! ### The ordered checks of a command (R200, R202 to R205) -/

/-- The fault the checks of R200 meet, `none` where all of them pass: the command's own, then the overrun. -/
def firstFault (own : Option ErrCode) (e : Nat) (s : State) : ErrCode :=
  match own with
  | some c => c
  | none   => if s.free < e then .outOverrun else .none

/-- The check a command makes for itself (R200 steps 4 and 5): a full key store, or no key. -/
def ownCheck (i : Instr) (s : State) : Option ErrCode :=
  match i with
  | .keyPut _ => keyStoreCheck s
  | .brdEnc _ | .brdDec _ | .brdOfs => needsKey s
  | _ => none

section Checks

variable {own : Option ErrCode} {e : Nat} {body : Result} {i : Instr} {s t : State}

@[simp] theorem firstFault_some (c : ErrCode) : firstFault (some c) e s = c := rfl

@[simp] theorem firstFault_none : firstFault none e s = if s.free < e then .outOverrun else .none := rfl

theorem attempt_of_firstFault (hs : s.err = false) (hc : firstFault own e s ≠ .none) :
    attempt own e body s = .next (s.raiseFault (firstFault own e s)) := by
  cases own with
  | some c => exact attempt_of_own hs
  | none =>
    by_cases he : s.free < e
    · rw [attempt_of_overrun hs he, firstFault_none, if_pos he]
    · exact absurd (if_neg he) hc

theorem attempt_of_no_firstFault (hs : s.err = false) (hown : own ≠ some .none) (hc : firstFault own e s = .none) :
    attempt own e body s = body := by
  cases own with
  | some c => exact absurd (congrArg some hc) hown
  | none =>
    refine attempt_of_room hs (not_lt.mp fun he => ?_)
    simp [he] at hc

theorem ownCheck_ne_some_none : ownCheck i s ≠ some .none := by
  cases i with
  | keyPut => exact keyStoreCheck_ne_some_none
  | brdEnc | brdDec | brdOfs => exact needsKey_ne_some_none
  | _ => nofun

/-- The conditions of R202 to R204 are the command's own check, and then room for the bytes R33 says it emits. -/
theorem faultOf_eq_firstFault (i : Instr) (s : State) : faultOf i s = firstFault (ownCheck i s) (emissionCount i s) s := by
  cases i with
  | b64ePut => by_cases h : s.encN = 2 <;> simp [faultOf, ownCheck, emissionCount, h]
  | b64eEnd => by_cases h : s.encN = 1 ∨ s.encN = 2 <;> simp [faultOf, ownCheck, emissionCount, h]
  | b64dPut c => by_cases h : dec6 c ≠ none ∧ s.decN = 3 <;> simp [faultOf, ownCheck, emissionCount, ← and_assoc, h]
  | b64dEnd => rcases decN_cases s.decN with h | h | h | h <;> simp [faultOf, ownCheck, emissionCount, h]
  | keyPut => by_cases h : s.keylen = s.cfg.keyMax <;> simp [faultOf, ownCheck, emissionCount, keyStoreCheck, h]
  | brdEnc | brdDec | brdOfs => by_cases h : s.keylen = 0 <;> simp [faultOf, ownCheck, emissionCount, needsKey, h]
  | _ => simp [faultOf, ownCheck, emissionCount]

/-- A command without a check of its own checks room for its bytes, and then has its effect, which leaves ERR. -/
theorem runEffect_eq_attempt {eff : Effect} (he : LawfulEffect i s eff) :
    ∃ body, runEffect eff s = attempt none (emissionCount i s) body s ∧ ∀ t, body = .next t → t.err = s.err := by
  refine ⟨_, by rw [← he.count]; rfl, ?_⟩
  rintro _ ⟨⟩
  obtain ⟨-, -, herr, -⟩ := shared_eq_iff.mp he.shared
  exact herr

/-- A command that reads the key leaves ERR where what it does with the key byte leaves it. -/
theorem withKeyByte_err {k : Byte → Result} (hk : ∀ code t, k code = .next t → t.err = s.err)
    (h : withKeyByte s k = .next t) : t.err = s.err := by
  obtain ⟨_, h⟩ := withKeyByte_next h
  exact hk _ _ h

/-- Every command but `RST` makes its own check, then checks room for the bytes of R33, and then runs pseudocode that leaves ERR
(R200). -/
theorem exec_eq_attempt (hi : i ≠ .rst) (s : State) :
    ∃ body, exec i s = attempt (ownCheck i s) (emissionCount i s) body s ∧ ∀ t, body = .next t → t.err = s.err := by
  cases i with
  | rst => exact absurd rfl hi
  | nop | b64eInit | b64dInit | keyClr | keyPut | brdInit => exact ⟨_, rfl, by rintro _ ⟨⟩; rfl⟩
  | b64ePut d => exact runEffect_eq_attempt (encPutEffect_lawful d s)
  | b64eEnd => exact runEffect_eq_attempt (encEndEffect_lawful s)
  | b64dPut c => exact runEffect_eq_attempt (decPutEffect_lawful c s)
  | b64dEnd => exact runEffect_eq_attempt ⟨rfl, flushBytes_length s, clearDec_inv _⟩
  | brdEnc | brdDec | brdOfs => exact ⟨_, rfl, fun _ => withKeyByte_err (by rintro _ _ ⟨⟩; rfl)⟩

end Checks

/-- Settles O34: the conditions name the fault the checks of R200 meet, and where they meet none the pseudocode leaves ERR. -/
theorem faultsFollowTheOrderedChecks : Obligations.FaultsFollowTheOrderedChecks := by
  intro i s hs
  by_cases hi : i = .rst
  · subst hi
    exact ⟨fun hc => absurd rfl hc, by rintro _ - ⟨⟩; rfl⟩
  · obtain ⟨body, hexec, hbody⟩ := exec_eq_attempt hi s
    rw [hexec, faultOf_eq_firstFault]
    refine ⟨attempt_of_firstFault hs, fun t hc h => ?_⟩
    rw [attempt_of_no_firstFault hs ownCheck_ne_some_none hc] at h
    exact (hbody t h).trans hs

end Sys2Proof.Machine
end

section
/-! PROOFS. Reset (70_reset_and_hazards.md R230, R231), the key reads that stop (R232), and that the unit never stalls: from a
state with the invariant every access to a register completes (R241). -/

namespace Sys2Proof.Machine

open Sys2Proof

/-! ### Reset (R230, R231) -/

/-- Settles O16: the step of a hardware reset, and `RST` gives each element the same value. -/
theorem hardwareResetGivesTheResetState : Obligations.HardwareResetGivesTheResetState :=
  fun _ _ hp => ⟨_, step_of_pending hp, rfl, rfl⟩

/-- In the reset state every register but CAP reads 0 (R231). -/
theorem readValue_initial {c : Config} {g : HostReg} (hg : g ≠ .cap) : readValue g (State.initial c) = 0#32 := by
  cases g with
  | cap => exact absurd rfl hg
  | status => exact BitVec.eq_of_toNat_eq (statusWord_toNat (Nat.two_pow_pos 16))
  | _ => rfl

/-- Settles O17: each element is read off the reset state, and CAP holds the parameters. -/
theorem resetStateAndItsRegisters : Obligations.ResetStateAndItsRegisters :=
  fun _ hc => ⟨⟨rfl, rfl, rfl⟩, ⟨rfl, rfl, rfl, rfl, rfl⟩, ⟨rfl, rfl, rfl⟩, ⟨rfl, rfl, rfl⟩, by simp [readValue_initial],
    capWord_toNat hc⟩

/-- Settles O40: the parameters of the model's reset state are in range. -/
theorem invariantHoldsAtReset : Obligations.InvariantHoldsAtReset :=
  ⟨fun _ => inv_initial, inv_initial (by decide)⟩

/-! ### Key reads past the end (R232) -/

section KeyRead

variable {s : State}

theorem braidData_of_past_end {f : Offset → Byte} (hs : s.err = false) (h : s.key ≠ []) (hidx : s.key.length ≤ s.kidx)
    (hroom : 1 ≤ s.free) : braidData f s = .fault .keyReadPastEnd := by
  rw [braidData, needsKey_of_key h, attempt_of_room hs hroom, withKeyByte_of_le hidx]

theorem exec_brdOfs_of_past_end (hs : s.err = false) (h : s.key ≠ []) (hidx : s.key.length ≤ s.kidx) :
    exec .brdOfs s = .fault .keyReadPastEnd := by
  rw [exec, execBrdOfs, needsKey_of_key h, attempt_of_room hs (Nat.zero_le _), withKeyByte_of_le hidx]

end KeyRead

/-- Settles O33: the checks of R200 pass, and there is no key byte to go on with. -/
theorem keyReadPastTheEndStops : Obligations.KeyReadPastTheEndStops :=
  fun _ _ hs h hidx => ⟨exec_brdOfs_of_past_end hs h hidx,
    fun hroom => ⟨braidData_of_past_end hs h hidx hroom, braidData_of_past_end hs h hidx hroom⟩⟩

/-! ### Every access completes (R241) -/

section Progress

variable {s : State}

/-- A command answers a state where its pseudocode does once its own check has passed: what else the checks of R200 can do is a
fault of the spec, which is a next state. -/
theorem exists_attempt_eq_next {own : Option ErrCode} {e : Nat} {body : Result} (hb : own = none → ∃ t, body = .next t) :
    ∃ t, attempt own e body s = .next t := by
  cases hs : s.err with
  | true => exact ⟨s, attempt_of_faulted hs⟩
  | false =>
    cases own with
    | some c => exact ⟨_, attempt_of_own hs⟩
    | none =>
      rcases Nat.lt_or_ge s.free e with he | he
      · exact ⟨_, attempt_of_overrun hs he⟩
      · rw [attempt_of_room hs he]
        exact hb rfl

theorem exists_runEffect_eq_next (eff : Effect) (s : State) : ∃ t, runEffect eff s = .next t :=
  exists_attempt_eq_next fun _ => ⟨_, rfl⟩

/-- With the key index in range, a command that needs a key and has one reads a byte that exists (R32 (c)). -/
theorem exists_readKey_eq_next {e : Nat} {k : Byte → State} (h : s.KeyIndexed) :
    ∃ t, attempt (needsKey s) e (withKeyByte s fun code => .next (k code)) s = .next t := by
  refine exists_attempt_eq_next fun hn => ?_
  obtain ⟨-, hidx, -⟩ := h
  have hkey : s.key ≠ [] := fun h0 => nomatch (needsKey_of_no_key h0).symm.trans hn
  exact ⟨_, withKeyByte_of_lt (hidx (List.length_pos_of_ne_nil hkey))⟩

/-- Only the three commands that read the key need anything of the state to complete. -/
theorem exists_exec_eq_next (h : s.KeyIndexed) (i : Instr) : ∃ t, exec i s = .next t := by
  cases i with
  | rst => exact ⟨_, rfl⟩
  | keyPut => exact exists_attempt_eq_next fun _ => ⟨_, rfl⟩
  | brdEnc | brdDec | brdOfs => exact exists_readKey_eq_next h
  | _ => exact exists_runEffect_eq_next _ s

theorem exists_runWord_eq_next (h : s.KeyIndexed) (v : Word) : ∃ t, runWord v s = .next t := by
  cases hv : decode v with
  | legal i => rw [runWord, hv]; exact exists_exec_eq_next h i
  | illegal w => rw [runWord, hv]; exact exists_attempt_eq_next nofun

/-- A step of `DRAIN` reads OUT, whether or not it stays first in line (R98). -/
theorem exists_drainRead_eq_next (s : State) : ∃ t, drainRead s = .next t := by
  unfold drainRead
  split <;> exact ⟨_, hostRead_of_reg rfl⟩

end Progress

/-- Settles O41: of all accesses to a register only a write to CMD depends on the state, and there the invariant keeps the key
index in range. -/
theorem everyAccessCompletes : Obligations.EveryAccessCompletes := by
  intro s hs hwrite hread
  cases hp : s.pending with
  | nil => exact ⟨s, step_of_idle hp⟩
  | cons a rest =>
    cases a with
    | write r v =>
      obtain ⟨hcmd, hother⟩ := writesToOtherRegistersAreIgnored s r v rest hp
      have hr : r ≤ 7 := hwrite r v (by rw [hp]; rfl)
      rcases Nat.eq_zero_or_pos r with h0 | h1
      · rw [hcmd h0]
        exact exists_runWord_eq_next (s := { s with pending := rest }) hs.keyIndexed v
      · exact ⟨_, hother h1 hr⟩
    | read r =>
      obtain ⟨g, hg⟩ := exists_ofNumber_eq (hread r (by rw [hp]; rfl))
      exact ⟨_, step_read hp hg⟩
    | drain =>
      rw [step_of_pending hp]
      exact exists_drainRead_eq_next _
    | hardwareReset => exact ⟨_, step_of_pending hp⟩

end Sys2Proof.Machine
end

section
/-! PROOFS. With room for the whole result the sequences ENCODE, DECODE and ENCRYPT complete without a fault and append it
(70_reset_and_hazards.md R240; 40_base64_encoder.md R124, 41_base64_decoder.md R144, 43_braid_cipher.md R179). -/

namespace Sys2Proof.Machine

open Sys2Proof

/-! ### Sequences that append to the output queue -/

/-- From the state on the commands complete without a fault, and they append the bytes to OUTQ. -/
def Appends (l : List Instr) (s : State) (bs : List Byte) : Prop :=
  ∃ t, execAll l s = .next t ∧ t.err = false ∧ t.outq = s.outq ++ bs

section Appends

variable {i : Instr} {l l' : List Instr} {s t : State} {bs cs : List Byte}

theorem execAll_cons (h : exec i s = .next t) : execAll (i :: l) s = execAll l t := by
  rw [execAll, h]

theorem execAll_append (h : execAll l s = .next t) : execAll (l ++ l') s = execAll l' t := by
  induction l generalizing s with
  | nil => cases h; rfl
  | cons i l ih =>
    obtain ⟨u, hu, h⟩ := execAll_next h
    rw [List.cons_append, execAll_cons hu, ih h]

theorem Appends.nil (hs : s.err = false) : Appends [] s [] := ⟨s, rfl, hs, (List.append_nil _).symm⟩

theorem Appends.cons (h : exec i s = .next t) (hq : t.outq = s.outq ++ bs) (hl : Appends l t cs) :
    Appends (i :: l) s (bs ++ cs) := by
  obtain ⟨u, hu, herr, hout⟩ := hl
  exact ⟨u, (execAll_cons h).trans hu, herr, by rw [hout, hq, List.append_assoc]⟩

/-- Commands that leave OUTQ as it is may go before. -/
theorem Appends.after (h : execAll l' s = .next t) (hq : t.outq = s.outq) (hl : Appends l t bs) :
    Appends (l' ++ l) s bs := by
  obtain ⟨u, hu, herr, hout⟩ := hl
  exact ⟨u, (execAll_append h).trans hu, herr, hout.trans (congrArg (· ++ bs) hq)⟩

/-- A command that has its effect where its bytes fit, before commands that need room for theirs: with room for all the bytes
both have it. -/
theorem Appends.cons_of_effect {eff : Effect} (he : LawfulEffect i s eff) (hs : s.err = false)
    (hexec : eff.out.length ≤ s.free → exec i s = .next (eff.after.emit eff.out)) (hroom : (eff.out ++ bs).length ≤ s.free)
    (hl : (eff.after.emit eff.out).err = false → bs.length ≤ (eff.after.emit eff.out).free →
      Appends l (eff.after.emit eff.out) bs) :
    Appends (i :: l) s (eff.out ++ bs) := by
  obtain ⟨hcfg, hq, herr, -⟩ := shared_eq_iff.mp he.shared
  rw [List.length_append] at hroom
  have hfree : bs.length ≤ (eff.after.emit eff.out).free := by
    rw [State.free, State.emit_cfg, State.emit_outq, List.length_append, hcfg, hq, ← Nat.sub_sub]
    exact Nat.le_sub_of_add_le' hroom
  exact .cons (hexec (by omega)) (congrArg (· ++ eff.out) hq) (hl (herr.trans hs) hfree)

end Appends

/-! ### ENCODE and DECODE (R124, R144) -/

section Base64

variable {s : State} {x : List Byte}

/-- The rest of ENCODE: with room for the encoding of the bytes held and the bytes to come, it is appended. -/
theorem appends_b64ePuts (hs : s.err = false) (hc : s.EncClean) (hroom : (encText (s.held ++ x)).length ≤ s.free) :
    Appends (x.map .b64ePut ++ [.b64eEnd]) s (encText (s.held ++ x)) := by
  induction x generalizing s with
  | nil =>
    rw [List.append_nil] at hroom ⊢
    simpa using Appends.cons (exec_b64eEnd_of_room hs hc hroom) rfl (.nil hs)
  | cons d x ih =>
    rw [← encPutEffect_conserves] at hroom ⊢
    exact .cons_of_effect (encPutEffect_lawful d s) hs (runEffect_of_room hs) hroom fun hs' =>
      ih hs' (encPutEffect_clean d hc)

/-- `B64D.PUT` of any character whose bytes fit: an invalid one is skipped, a valid one is held or completes a group (R142). -/
theorem decPutEffect_decodes (c : Byte) (s : State) :
    Decodes (validValues [c]) (decPutEffect c s).out s ((decPutEffect c s).after.emit (decPutEffect c s).out) := by
  cases hc : dec6 c with
  | none =>
    rw [decPutEffect_of_invalid hc, validValues, List.filterMap_cons_none hc, State.emit_nil]
    exact .of_unread_eq rfl
  | some v =>
    rw [decPutEffect_of_valid hc, validValues, List.filterMap_cons_some hc]
    exact decPutValueEffect_decodes v s

/-- The rest of DECODE: with room for the decoding of the values held and the values to come, it is appended. -/
theorem appends_b64dPuts (hs : s.err = false) (hc : s.DecClean)
    (hroom : (unpackText (s.slots ++ validValues x)).length ≤ s.free) :
    Appends (x.map .b64dPut ++ [.b64dEnd]) s (unpackText (s.slots ++ validValues x)) := by
  induction x generalizing s with
  | nil =>
    rw [validValues, List.filterMap_nil, List.append_nil, ← flushBytes_of_clean hc] at hroom ⊢
    simpa using Appends.cons (exec_b64dEnd_of_room hs rfl hroom) rfl (.nil hs)
  | cons c x ih =>
    have hput := decPutEffect_decodes c s
    have hsplit : validValues (c :: x) = validValues [c] ++ validValues x := List.filterMap_append (l := [c])
    rw [hsplit, ← hput.conserves] at hroom ⊢
    exact .cons_of_effect (decPutEffect_lawful c s) hs (runEffect_of_room hs) hroom fun hs' => ih hs' (hput.clean hc)

theorem appends_encode (hs : s.err = false) (hroom : (encText x).length ≤ s.free) :
    Appends (Pseudo.encode x).expand s (encText x) := by
  rw [Pseudo.expand, List.append_assoc]
  exact .after (execAll_cons (encInitEmptiesTheGroup.2 s hs)) rfl
    (appends_b64ePuts (s := s.clearEnc) hs (clearEnc_clean s) hroom)

theorem appends_decode (hs : s.err = false) (hroom : (decText x).length ≤ s.free) :
    Appends (Pseudo.decode x).expand s (decText x) := by
  rw [Pseudo.expand, List.append_assoc]
  exact .after (execAll_cons (decInitEmptiesTheGroupAndTheCount.2 s hs)) rfl
    (appends_b64dPuts (s := { s.clearDec with dcnt := 0 }) hs (clearDec_clean s) hroom)

end Base64

/-! ### ENCRYPT (R14, R179) -/

section Braid

variable {s : State} {x k : List Byte}

/-- `KEY.PUT` of bytes that fit the key store, after those of j, appends them (R162). -/
theorem execAll_keyPuts {j : List Byte} (hs : s.err = false) (hfit : (j ++ k).length ≤ s.cfg.keyMax) :
    execAll (k.map .keyPut) { s with key := j, kidx := 0 } = .next { s with key := j ++ k, kidx := 0 } := by
  induction k generalizing j with
  | nil => rw [List.append_nil]; rfl
  | cons b k ih =>
    have hplace : j.length ≠ s.cfg.keyMax := by
      rw [List.length_append, List.length_cons] at hfit
      omega
    have hput : exec (.keyPut b) { s with key := j, kidx := 0 } = .next { s with key := j ++ [b], kidx := 0 } :=
      exec_keyPut_of_not_full b hs hplace
    rw [List.append_cons] at hfit ⊢
    rw [List.map_cons, execAll_cons hput, ih hfit]

/-- `KEY.LOAD k` of a key that fits leaves the key k with KIDX = 0 and changes no other element (R99). -/
theorem execAll_keyLoad (hs : s.err = false) (hfit : k.length ≤ s.cfg.keyMax) :
    execAll (keyLoadCommands k) s = .next { s with key := k, kidx := 0 } := by
  have hputs : execAll (k.map .keyPut) { s with key := [], kidx := 0 } = .next { s with key := k, kidx := 0 } :=
    execAll_keyPuts (j := []) hs hfit
  rw [keyLoadCommands, List.append_assoc, List.singleton_append, execAll_cons (keyClrEmptiesTheKey.2 s hs),
    execAll_append hputs]
  exact execAll_cons (brdInitRestartsThePosition.2 _ hs)

/-- Data commands of the cipher from the position after n of them: with room for a byte each, every byte is combined with the
offset of its position and appended (R179). -/
theorem appends_braid {c : Byte → Instr} {f : Byte → Offset → Byte} (hc : ∀ b s, exec (c b) s = braidData (f b) s)
    (hcount : ∀ b s, emissionCount (c b) s = 1) (hk : k ≠ []) {n : Nat} (hs : s.err = false) (hkey : s.key = k)
    (hn : s.kidx = n % k.length) (hroom : x.length ≤ s.free) : Appends (x.map c) s (braidFrom f k hk (n + 1) x) := by
  induction x generalizing s n with
  | nil => exact .nil hs
  | cons b x ih =>
    have hlen : s.keylen = k.length := congrArg List.length hkey
    have hpos : 0 < k.length := List.length_pos_of_ne_nil hk
    have hlt : s.kidx < s.key.length := by rw [hn, hkey]; exact Nat.mod_lt n hpos
    have hnext : nextKidx s = (n + 1) % k.length := by rw [← hlen] at hn hpos ⊢; exact nextKidx_eq_mod hn hpos
    have heff := braidData_lawful (hcount b s) hlt (offset s.key[s.kidx] s.keylen) (f b (offset s.key[s.kidx] s.keylen))
    rw [braidFrom, ← offset_at_kidx hk hkey hn hlt]
    refine Appends.cons_of_effect heff hs (fun hone => (hc b s).trans (braidData_of_room hs hlt hone)) ?_ fun hs' hroom' => ?_
    · rw [List.length_append, braidFrom_length, List.length_singleton, Nat.add_comm]
      exact hroom
    · rw [braidFrom_length] at hroom'
      exact ih hs' hkey hnext hroom'

theorem appends_encrypt (hk : k ≠ []) (hs : s.err = false) (hfit : k.length ≤ s.cfg.keyMax) (hroom : x.length ≤ s.free) :
    Appends (Pseudo.encrypt x k).expand s (encryptText k hk x) :=
  .after (execAll_keyLoad hs hfit) rfl
    (appends_braid (s := { s with key := k, kidx := 0 }) (fun _ _ => rfl) (fun _ _ => rfl) hk hs rfl (Nat.zero_mod _).symm hroom)

end Braid

/-- Settles O60: each sequence appends its result. -/
theorem sequencesCompleteWithRoom : Obligations.SequencesCompleteWithRoom :=
  fun _ _ hs => ⟨appends_encode hs, appends_decode hs, fun _ hk => appends_encrypt hk hs⟩

end Sys2Proof.Machine
end
